-- ==== Sys2Proof/Word.lean ====
section
/-! DEFINITION. Words and bytes (spec/00_scope.md R8, R9). Every datapath value of the block is an unsigned 32-bit word;
buffer memory is made of bytes. The operators of R10 are BitVec's own: `^^^`, `~~~`, `>>>` (logical), `<<<`, `&&&`. -/
namespace Sys2Proof

/-- The datapath word: CRC register, polynomial, seed, result and every host register (R8). -/
abbrev Word := BitVec 32

/-- One byte of buffer memory (R50). -/
abbrev Byte := BitVec 8

/-- The number of buffer byte addresses, 2^32 (R8, R42). -/
abbrev addressSpace : Nat := 2 ^ 32

end Sys2Proof
end

