-- ==== Sys2Proof/Syntax.lean ====
section
/-! DEFINITION. The instructions: the block's seven command words (spec/30_encoding.md R74), one constructor per row of
spec/opcode_table.json. A command has no operand of its own: POLY, SEED, ADDR and LEN are read from the registers when it
executes (R70, R73), and the SLOT field of a SELECT is part of its row. -/
namespace Sys2Proof

/-- The commands of R74. -/
inductive Instr where
  /-- GET, word 0x00000001 (spec/43_dispatch_and_commands.md R167). -/
  | get
  /-- SELECT 0, `select crc32_normal`, word 0x00000002 (R168). -/
  | selectCrc32Normal
  /-- SELECT 1, `select crc32_zip`, word 0x00000012 (R168). -/
  | selectCrc32Zip
  /-- SELECT 2, `select crc32c`, word 0x00000022 (R168). -/
  | selectCrc32c
  /-- SELECT 3, `select crc32c_normal`, word 0x00000032 (R168). -/
  | selectCrc32cNormal
  /-- SELECT 4, `select crc32c_best`, word 0x00000042 (R168). -/
  | selectCrc32cBest
  /-- HASH, word 0x00000003 (R169). -/
  | hash
deriving DecidableEq, Repr

end Sys2Proof
end

