-- ==== Sys2Proof/WellFormed.lean ====
section
/-! DEFINITION. Which command words are well formed. An `Instr` has no operand, so every `Instr` is well formed; what can be
ill formed is the command word a host writes, seen as the three fields of format CW (spec/30_encoding.md R70). -/
namespace Sys2Proof

/-- The fields of format CW (R70): OP = w[3:0], SLOT = w[6:4], RSV = w[31:7]. -/
structure CommandWord where
  op   : BitVec 4
  slot : BitVec 3
  rsv  : BitVec 25
deriving DecidableEq, Repr

/-- R70: OP names GET, SELECT or HASH. -/
def CommandWord.opLegal (c : CommandWord) : Bool := c.op == 1 || c.op == 2 || c.op == 3

/-- R70: the reserved bits are 0. -/
def CommandWord.rsvLegal (c : CommandWord) : Bool := c.rsv == 0

/-- R70, R72: SLOT is 0 to 4 in SELECT and 0 in GET and HASH. -/
def CommandWord.slotLegal (c : CommandWord) : Bool :=
  if c.op == 2 then decide (c.slot.toNat ≤ 4) else c.slot == 0

/-- A legal command word (R74): all three checks hold. -/
def CommandWord.wf (c : CommandWord) : Bool := c.opLegal && c.rsvLegal && c.slotLegal

/-- Every command is well formed: no constructor carries an operand (R70: "Operands other than SLOT are never in the
command word", and each SLOT value has its own constructor). -/
def Instr.wf : Instr → Bool
  | .get => true
  | .selectCrc32Normal => true
  | .selectCrc32Zip => true
  | .selectCrc32c => true
  | .selectCrc32cNormal => true
  | .selectCrc32cBest => true
  | .hash => true

end Sys2Proof
end

