-- ==== Sys2Proof/Decode.lean ====
section
/-! DEFINITION. The command decoder (spec/30_encoding.md R70-R76), total on every 32-bit word, and the encoder. -/
namespace Sys2Proof

/-- Why a word is illegal (R75). All four end with ERR_ILLEGAL; the name says which case of R75 it is. -/
inductive Illegal where
  /-- OP is 0x0 or 0x4 to 0xF. -/
  | operation
  /-- A reserved bit is not 0. -/
  | reservedBits
  /-- SLOT is not 0 in GET or HASH. -/
  | slotNotZero
  /-- SLOT is 5, 6 or 7 in SELECT. -/
  | slotOutOfRange
deriving DecidableEq, Repr

/-- The fields of a word (R70, R71, R72). -/
def CommandWord.ofWord (w : Word) : CommandWord :=
  { op := w.extractLsb' 0 4, slot := w.extractLsb' 4 3, rsv := w.extractLsb' 7 25 }

/-- The word made of the fields (R70). -/
def CommandWord.toWord (c : CommandWord) : Word :=
  c.op.setWidth 32 ||| (c.slot.setWidth 32 <<< 4) ||| (c.rsv.setWidth 32 <<< 7)

/-- The SELECT that a SLOT value 0 to 4 names, in the order of R72. -/
def selectOfSlot (slot : BitVec 3) : Except Illegal Instr :=
  match slot.toNat with
  | 0 => .ok .selectCrc32Normal
  | 1 => .ok .selectCrc32Zip
  | 2 => .ok .selectCrc32c
  | 3 => .ok .selectCrc32cNormal
  | 4 => .ok .selectCrc32cBest
  | _ => .error .slotOutOfRange

/-- The decoder of R74 on the fields, rejecting by the cases of R75. -/
def decodeFields (c : CommandWord) : Except Illegal Instr :=
  match c.op.toNat with
  | 1 => if c.rsv ≠ 0 then .error .reservedBits else if c.slot ≠ 0 then .error .slotNotZero else .ok .get
  | 2 => if c.rsv ≠ 0 then .error .reservedBits else selectOfSlot c.slot
  | 3 => if c.rsv ≠ 0 then .error .reservedBits else if c.slot ≠ 0 then .error .slotNotZero else .ok .hash
  | _ => .error .operation

/-- DECODE (R74): the command of a 32-bit command word, or why it is illegal. There is one length and no prefix (R76). -/
def decode (w : Word) : Except Illegal Instr := decodeFields (CommandWord.ofWord w)

/-- The fields that R70 and R72 give each command. -/
def encodeFields : Instr → CommandWord
  | .get => { op := 1, slot := 0, rsv := 0 }
  | .selectCrc32Normal => { op := 2, slot := 0, rsv := 0 }
  | .selectCrc32Zip => { op := 2, slot := 1, rsv := 0 }
  | .selectCrc32c => { op := 2, slot := 2, rsv := 0 }
  | .selectCrc32cNormal => { op := 2, slot := 3, rsv := 0 }
  | .selectCrc32cBest => { op := 2, slot := 4, rsv := 0 }
  | .hash => { op := 3, slot := 0, rsv := 0 }

/-- The command word of a command. -/
def encode (i : Instr) : Word := (encodeFields i).toWord

/-- The low `nbits` bits of `w` as a command word: what the host reads of a table row. A command word is one 32-bit word and
the register port has no byte order (spec/20_memory.md R52), so bit k of the number is bit k of the word. -/
def wordOfTable (nbits w : Nat) : Word := BitVec.ofNat 32 (w % 2 ^ nbits)

/-- What the decoder reads from a row of spec/opcode_table.json (log entry 18). -/
def decodeTableWord (nbits w : Nat) : Option Instr :=
  match decode (wordOfTable nbits w) with
  | .ok i => some i
  | .error _ => none

end Sys2Proof
end

