-- ==== Sys2Proof/Config.lean ====
section
/-! DEFINITION. What the platform fixes and the spec leaves open (spec/00_scope.md R8, spec/92_eei_decisions.md rows marked
OPEN), and the source of the free values. None of these constants has a body, so no proof can see a value of it: a claim
that rests on one holds for every value. -/
namespace Sys2Proof

/-- A range of readable buffer addresses, `first` up to but not including `first + count` (MEM_ADMIT, R8, R50). -/
structure Region where
  first : Nat
  count : Nat
deriving DecidableEq, Repr

/-- The strap CAP_HW as the platform ties it at power-on (R8, spec/10_state.md R45; log entry 5). -/
opaque Config.strapHw : Bool

/-- The strap CAP_WIDE as the platform ties it at power-on (R8, spec/10_state.md R45; log entry 5). -/
opaque Config.strapWide : Bool

/-- The platform address of the register window, BASE (R8, spec/10_state.md R21; log entry 6). -/
opaque Config.base : Nat

/-- The readable buffer addresses, MEM_ADMIT (R8, spec/20_memory.md R50; log entry 4). -/
opaque Config.admits : List Region

/-- What the buffer memory parameter MEM holds at an address that no cell of State.mem lists (R8, R50; log entry 3). -/
opaque Config.memByte : Nat → Byte

/-- The free values: the RESULT of the n-th HASH whose result the spec leaves arbitrary (spec/20_memory.md R55; log
entries 7 and 8). -/
opaque Config.freeWord : Nat → Word

end Sys2Proof
end

