-- ==== Sys2Proof/Machine/State.lean ====
section
/-! DEFINITION. The machine's state as plain data (spec/10_state.md R20), its reasons to stop, and reset
(spec/70_reset_and_hazards.md R230). INVENTORY.md's '## State' lists every field with the rule that names it. -/
namespace Sys2Proof.Machine

/-! ### Completion codes -/

/-- The completion codes of STATUS.ERR (spec/60_exceptions.md R201). Codes 5 to 15 are never produced, so they have no
constructor (spec/93_implementation_defined.md U4). -/
inductive ErrCode where
  /-- 0: the command completed. -/
  | ok
  /-- 1, ERR_ILLEGAL (R202). -/
  | illegal
  /-- 2, ERR_NOSEL (R203). -/
  | noSel
  /-- 3, ERR_RANGE (R204). -/
  | range
  /-- 4, ERR_BUS (R205). -/
  | bus
deriving DecidableEq, Repr

/-! ### Calculator slots -/

/-- A lookup table: 16 slices of 256 words (R39, spec/00_scope.md R8), indexed slice first. -/
abbrev Table := Vector (Vector Word 256) 16

/-- A calculator (R39): table-backed with its own table, or hardware-backed, which owns no table
(spec/93_implementation_defined.md U3). Each is bound to one polynomial. -/
inductive Calculator where
  | table (poly : Word) (entries : Table)
  | hardware (poly : Word)
deriving DecidableEq, Repr

/-- The five well-known slots, ids 0 to 4 (R39). -/
inductive WellKnown where
  | crc32Normal
  | crc32Zip
  | crc32c
  | crc32cNormal
  | crc32cBest
deriving DecidableEq, Repr

/-- The six slots: the well-known ones and SCRATCH, id 5 (R39). -/
inductive SlotId where
  | known (w : WellKnown)
  | scratch
deriving DecidableEq, Repr

/-- The slot store, `slot[0..5]` (R39). `none` is a slot with `valid = 0`: its other fields are unspecified and
unobservable, so the model leaves them out (spec/93_implementation_defined.md U2; log entry 9). -/
structure SlotStore where
  crc32Normal  : Option Calculator
  crc32Zip     : Option Calculator
  crc32c       : Option Calculator
  crc32cNormal : Option Calculator
  crc32cBest   : Option Calculator
  scratch      : Option Calculator
deriving DecidableEq, Repr

/-! ### Buffer memory -/

/-- The buffer memory MEM (spec/20_memory.md R50) as the cells somebody has placed, addresses strictly rising. An address
that is not listed has no placed byte; what the block reads there is the open value `Config.memByte` (log entry 3). -/
abbrev Memory := List Host.Cell

/-- The canonical form of `Memory`: addresses strictly rising, all of them buffer addresses. An unlisted address holds no
placed byte, so no entry can equal what an unlisted address holds. -/
abbrev Memory.wf (m : Memory) : Prop :=
  m.Pairwise (fun c d => c.1 < d.1) ∧ ∀ c ∈ m, c.1 < addressSpace

/-! ### What arrives at the block from outside -/

/-- The registers of the host window (R21). -/
inductive HostReg where
  | cmd | status | cap | poly | seed | addr | len | result | sel | selpoly | tblidx | tbldata
  /-- The reserved offsets 0x30 to 0x3C (R34). -/
  | reserved
deriving DecidableEq, Repr

/-- Where a host access goes: an offset of the register window, as the transactions of spec/30_encoding.md R78 write it, or
an address of the platform, which reaches the window at BASE (R21; log entry 6). -/
inductive HostAddr where
  | offset (o : Nat)
  | platform (a : Nat)
deriving DecidableEq, Repr

/-- What a host access does (R35). -/
inductive HostOp where
  | read
  | write (v : Word)
  /-- The host writes the data its last read returned: the second line of `hash_next` (spec/30_encoding.md R79; log entry 21). -/
  | writeBack
deriving DecidableEq, Repr

/-- One host bus transaction of `width` bytes (R35: the block gives a step to 4-byte ones only). -/
structure HostAccess where
  addr  : HostAddr
  width : Nat
  op    : HostOp
deriving DecidableEq, Repr

/-- Something that happens while a command executes. -/
inductive Overlap where
  /-- Another bus master stores a byte between the CMD write and the command's completion (spec/20_memory.md R55, R62). -/
  | store (a : Word) (b : Byte)
  /-- A host access finds STATUS.BUSY = 1 (spec/70_reset_and_hazards.md R236; log entry 10). -/
  | access (acc : HostAccess)
deriving DecidableEq, Repr

/-- One event at the block's boundary (spec/00_scope.md R12; log entry 1). -/
inductive BusEvent where
  /-- A host bus transaction (R35). A write to CMD starts a command. -/
  | host (acc : HostAccess)
  /-- The next command will have this happen while it executes. -/
  | during (o : Overlap)
  /-- Another bus master stores a byte of buffer memory between commands (R12 c). -/
  | store (a : Word) (b : Byte)
  /-- The platform changes the strap pins (R45). -/
  | straps (hw wide : Bool)
  /-- Reset (spec/70_reset_and_hazards.md R230). -/
  | reset
  /-- A host write of `w` to CMD whose command is abandoned because reset asserts before it completes (R230; log entry 13). -/
  | cmdCut (w : Word)
deriving DecidableEq, Repr

/-! ### Reasons to stop -/

/-- The block has no fault: no trap, no exception, nothing that stops it (spec/60_exceptions.md R200, R207; log entry 23). -/
inductive Fault where
deriving DecidableEq, Repr

/-- Why a step has no meaning. -/
inductive Refusal where
  /-- Raised by `exec` for a command the model gives no meaning. No command is left so. Safe. -/
  | notModelled (mnemonic : String)
  /-- Raised by `step` for a host access that is not a 32-bit access at a word-aligned offset 0x00 to 0x3C of the window:
  R35 gives such an access no step (spec/93_implementation_defined.md U6; log entry 12). Safe. -/
  | hostAccess
deriving DecidableEq, Repr

/-! ### The state -/

/-- The state: the block's registers, slots and capability bits (R20), the parameters and surroundings of the block as data
(spec/00_scope.md R8), and five fields of the model's own. CMD stores nothing (R22); CAP (R24) and TBLDATA (R33) are
computed from other fields. -/
structure State where
  /-- STATUS (R23): bit 0 BUSY, bit 1 DONE, bits 7:4 ERR, bit 8 ERRSEEN. -/
  status  : Word
  /-- POLY (R25). -/
  poly    : Word
  /-- SEED (R26). -/
  seed    : Word
  /-- ADDR (R27). -/
  addr    : Word
  /-- LEN (R28). -/
  len     : Word
  /-- RESULT (R29). -/
  result  : Word
  /-- SEL (R30): bit 0 VALID, bit 1 HW, bits 6:4 SLOT. -/
  sel     : Word
  /-- SELPOLY (R31). -/
  selpoly : Word
  /-- TBLIDX (R32): bits 7:0 BYTE, 11:8 SLICE, 14:12 SRC. -/
  tblidx  : Word
  /-- The calculator slots with their tables (R39). -/
  slots   : SlotStore
  /-- `capHw`, latched from CAP_HW at reset (R45). -/
  capHw   : Bool
  /-- `capWide`, latched from CAP_WIDE at reset (R45). -/
  capWide : Bool
  /-- The level of the strap pin CAP_HW (parameter, R8). -/
  strapHw   : Bool
  /-- The level of the strap pin CAP_WIDE (parameter, R8). -/
  strapWide : Bool
  /-- BASE (parameter, R8, R21). -/
  base    : Nat
  /-- MEM_ADMIT (parameter, R8, spec/20_memory.md R50). -/
  admits  : List Region
  /-- MEM (parameter, R8, spec/20_memory.md R50), which other bus masters may write and the block never does (R54). -/
  mem     : Memory
  /-- MODEL: the bus events still to come, oldest first. -/
  inbox   : List BusEvent
  /-- MODEL: what happens while the next command executes, oldest first. -/
  overlap : List Overlap
  /-- MODEL: the data that the last host read returned. -/
  rdata   : Word
  /-- MODEL: the buffer addresses the last command read, in order (spec/20_memory.md R54). -/
  reads   : List Nat
  /-- MODEL: how many free values have been taken. -/
  draws   : Nat
deriving DecidableEq, Repr

/-- A slot store with every slot invalid (spec/70_reset_and_hazards.md R230: "registry empty"). -/
def SlotStore.empty : SlotStore :=
  { crc32Normal := none, crc32Zip := none, crc32c := none, crc32cNormal := none, crc32cBest := none, scratch := none }

/-- The state right after reset on a platform with the given parameters (spec/70_reset_and_hazards.md R230, R46): all
registers 0, every slot invalid, the capability bits from the straps, no placed byte of memory, nothing on the bus. -/
def State.resetOn (hw wide : Bool) (base : Nat) (admits : List Region) : State :=
  { status := 0, poly := 0, seed := 0, addr := 0, len := 0, result := 0, sel := 0, selpoly := 0, tblidx := 0
    slots := SlotStore.empty, capHw := hw, capWide := wide
    strapHw := hw, strapWide := wide, base := base, admits := admits, mem := []
    inbox := [], overlap := [], rdata := 0, reads := [], draws := 0 }

/-- The state right after reset, whatever the platform's parameters are. -/
def State.reset : State := State.resetOn Config.strapHw Config.strapWide Config.base Config.admits

end Sys2Proof.Machine
end

