-- ==== Sys2Proof/Machine/Flags.lean ====
section
/-! DEFINITION. The fields of STATUS, SEL, CAP and TBLIDX, and every change of a flag (spec/10_state.md R23, R24, R30, R32,
R38; spec/43_dispatch_and_commands.md R166, R170, R171). -/
namespace Sys2Proof.Machine

/-! ### STATUS (R23) -/

/-- The number of a completion code (spec/60_exceptions.md R201), as a word. -/
def ErrCode.num : ErrCode → Word
  | .ok => 0
  | .illegal => 1
  | .noSel => 2
  | .range => 3
  | .bus => 4

/-- STATUS.BUSY, bit 0. -/
def statusBusy (st : Word) : Bool := st.getLsbD 0

/-- STATUS.DONE, bit 1. -/
def statusDone (st : Word) : Bool := st.getLsbD 1

/-- STATUS.ERR, bits 7:4. -/
def statusErr (st : Word) : BitVec 4 := st.extractLsb' 4 4

/-- STATUS.ERRSEEN, bit 8. -/
def statusErrSeen (st : Word) : Bool := st.getLsbD 8

/-- The start of ON_CMD_WRITE (R170): BUSY becomes 1 and DONE becomes 0. -/
def statusBegin (st : Word) : Word := (st &&& ~~~0x2#32) ||| 0x1#32

/-- What COMPLETE(code) does to STATUS (R171): ERR becomes the code, ERRSEEN is set by a nonzero code and otherwise kept, BUSY
becomes 0 and DONE becomes 1. -/
def statusComplete (code : ErrCode) (st : Word) : Word :=
  (st &&& ~~~0xF3#32) ||| (code.num <<< 4) ||| (if code = .ok then 0x0#32 else 0x100#32) ||| 0x2#32

/-! ### SEL (R30) -/

/-- SEL.VALID, bit 0. -/
def selValid (sel : Word) : Bool := sel.getLsbD 0

/-- SEL.HW, bit 1. -/
def selHw (sel : Word) : Bool := sel.getLsbD 1

/-- SEL.SLOT, bits 6:4. -/
def selSlot (sel : Word) : BitVec 3 := sel.extractLsb' 4 3

/-- The value SELECT_SLOT writes to SEL (R166). -/
def selWord (slot : BitVec 3) (hw : Bool) : Word :=
  (slot.setWidth 32 <<< 4) ||| (if hw then 0x2#32 else 0x0#32) ||| 0x1#32

/-! ### CAP (R24) -/

/-- The value CAP reads: HW_WIDE64 is `capHw` and `capWide`, HW_CRC32C is `capHw`. -/
def capWord (capHw capWide : Bool) : Word :=
  (if capHw && capWide then 0x2#32 else 0x0#32) ||| (if capHw then 0x1#32 else 0x0#32)

/-! ### TBLIDX (R32) -/

/-- TBLIDX.BYTE, bits 7:0. -/
def tblByte (idx : Word) : Byte := idx.extractLsb' 0 8

/-- TBLIDX.SLICE, bits 11:8. -/
def tblSlice (idx : Word) : BitVec 4 := idx.extractLsb' 8 4

/-- TBLIDX.SRC, bits 14:12. -/
def tblSrc (idx : Word) : BitVec 3 := idx.extractLsb' 12 3

/-- What a host write of `v` stores in TBLIDX: `v[14:0]`. -/
def tblidxStored (v : Word) : Word := v &&& 0x7FFF#32

end Sys2Proof.Machine
end

