-- ==== Sys2Proof/Machine/Ops.lean ====
section
/-! DEFINITION. The named operations over memory, slots and registers, and the end of a command, which on this block stands
in the place of taking an exception (spec/60_exceptions.md R200, R207; there is no return from one, R210). -/
namespace Sys2Proof.Machine

/-! ### Buffer memory (spec/20_memory.md R50) -/

/-- The byte placed at an address, if any. -/
def Memory.cell : Memory → Nat → Option Byte
  | [], _ => none
  | c :: rest, a => if c.1 = a then some c.2 else Memory.cell rest a

/-- What an address that lists no byte holds: the open value of the parameter MEM (log entry 3). -/
def Memory.unlisted (a : Nat) : Byte := Config.memByte a

/-- `MEM[a]` (R50). -/
def Memory.byteAt (m : Memory) (a : Nat) : Byte := (Memory.cell m a).getD (Memory.unlisted a)

/-- Place one byte, keeping the addresses strictly rising. Only other bus masters do this: the block never writes buffer
memory (R54). -/
def Memory.store : Memory → Nat → Byte → Memory
  | [], a, b => [(a, b)]
  | c :: rest, a, b =>
    if a < c.1 then (a, b) :: c :: rest
    else if a = c.1 then (a, b) :: rest
    else c :: Memory.store rest a b

/-- Whether a region holds the address. -/
def regionHolds (r : Region) (a : Nat) : Bool := decide (r.first ≤ a ∧ a < r.first + r.count)

/-- `MEM_ADMIT(a)` (R50; log entry 4). -/
def State.memAdmit (s : State) (a : Nat) : Bool := s.admits.any (fun r => regionHolds r a)

/-! ### Slots (spec/10_state.md R39) -/

/-- The slot ids 0 to 4 in the order of R39. -/
def WellKnown.num : WellKnown → BitVec 3
  | .crc32Normal => 0
  | .crc32Zip => 1
  | .crc32c => 2
  | .crc32cNormal => 3
  | .crc32cBest => 4

/-- The slot id. -/
def SlotId.num : SlotId → BitVec 3
  | .known w => w.num
  | .scratch => 5

/-- The slot a 3-bit id names; 6 and 7 name no slot (R32). -/
def SlotId.ofNum (n : BitVec 3) : Option SlotId :=
  match n.toNat with
  | 0 => some (.known .crc32Normal)
  | 1 => some (.known .crc32Zip)
  | 2 => some (.known .crc32c)
  | 3 => some (.known .crc32cNormal)
  | 4 => some (.known .crc32cBest)
  | 5 => some .scratch
  | _ => none

/-- `slot[k]`; `none` is `valid = 0`. -/
def SlotStore.get (t : SlotStore) : SlotId → Option Calculator
  | .known .crc32Normal => t.crc32Normal
  | .known .crc32Zip => t.crc32Zip
  | .known .crc32c => t.crc32c
  | .known .crc32cNormal => t.crc32cNormal
  | .known .crc32cBest => t.crc32cBest
  | .scratch => t.scratch

/-- `slot[k] <- c`, with `valid = 1`. -/
def SlotStore.set (t : SlotStore) (k : SlotId) (c : Calculator) : SlotStore :=
  match k with
  | .known .crc32Normal => { t with crc32Normal := some c }
  | .known .crc32Zip => { t with crc32Zip := some c }
  | .known .crc32c => { t with crc32c := some c }
  | .known .crc32cNormal => { t with crc32cNormal := some c }
  | .known .crc32cBest => { t with crc32cBest := some c }
  | .scratch => { t with scratch := some c }

/-- `slot[k].poly`. -/
def Calculator.poly : Calculator → Word
  | .table p _ => p
  | .hardware p => p

/-- `slot[k].kind = HW`. -/
def Calculator.isHardware : Calculator → Bool
  | .table _ _ => false
  | .hardware _ => true

/-- `T[t][i]` (spec/00_scope.md R11). -/
def Table.entry (T : Table) (t : Fin 16) (i : Byte) : Word := (T.get t).get i.toFin

/-- The valid calculator that a 3-bit slot id names, if there is one. -/
def State.calculatorAt (s : State) (n : BitVec 3) : Option Calculator := (SlotId.ofNum n).bind s.slots.get

/-- `slot[k] <- c`. -/
def State.setSlot (s : State) (k : SlotId) (c : Calculator) : State := { s with slots := s.slots.set k c }

/-! ### Host registers (R21 to R34) -/

/-- The register at a byte offset of the window; `none` where the offset is not word-aligned or not in 0x00 to 0x3C (R21,
R35). -/
def HostReg.ofOffset (o : Nat) : Option HostReg :=
  if o % 4 ≠ 0 then none
  else
    match o / 4 with
    | 0 => some .cmd
    | 1 => some .status
    | 2 => some .cap
    | 3 => some .poly
    | 4 => some .seed
    | 5 => some .addr
    | 6 => some .len
    | 7 => some .result
    | 8 => some .sel
    | 9 => some .selpoly
    | 10 => some .tblidx
    | 11 => some .tbldata
    | 12 => some .reserved
    | 13 => some .reserved
    | 14 => some .reserved
    | 15 => some .reserved
    | _ => none

/-- TBLDATA (R33): the entry TBLIDX names of a valid table-backed slot, else 0. -/
def State.tblData (s : State) : Word :=
  match s.calculatorAt (tblSrc s.tblidx) with
  | some (.table _ T) => T.entry (tblSlice s.tblidx).toFin (tblByte s.tblidx)
  | some (.hardware _) => 0
  | none => 0

/-- A host read of a register (R22 to R34). It has no side effect on the block (R35, spec/20_memory.md R56). -/
def State.readReg (s : State) : HostReg → Word
  | .cmd => 0
  | .status => s.status
  | .cap => capWord s.capHw s.capWide
  | .poly => s.poly
  | .seed => s.seed
  | .addr => s.addr
  | .len => s.len
  | .result => s.result
  | .sel => s.sel
  | .selpoly => s.selpoly
  | .tblidx => s.tblidx
  | .tbldata => s.tblData
  | .reserved => 0

/-- A host write of a register other than CMD (R23 to R34): POLY, SEED, ADDR, LEN and TBLIDX store it, the others ignore it.
CMD itself stores nothing (R22); what the write starts is `onCmdWrite`. -/
def State.writeReg (s : State) (r : HostReg) (v : Word) : State :=
  match r with
  | .poly => { s with poly := v }
  | .seed => { s with seed := v }
  | .addr => { s with addr := v }
  | .len => { s with len := v }
  | .tblidx => { s with tblidx := tblidxStored v }
  | .cmd => s
  | .status => s
  | .cap => s
  | .result => s
  | .sel => s
  | .selpoly => s
  | .tbldata => s
  | .reserved => s

/-- A host read while STATUS.BUSY = 1 (spec/70_reset_and_hazards.md R236): TBLDATA gives 0, every other register what it
holds, which for RESULT, SEL and SELPOLY is the value before the command (log entry 10). -/
def State.readRegBusy (s : State) : HostReg → Word
  | .tbldata => 0
  | .cmd => s.readReg .cmd
  | .status => s.readReg .status
  | .cap => s.readReg .cap
  | .poly => s.readReg .poly
  | .seed => s.readReg .seed
  | .addr => s.readReg .addr
  | .len => s.readReg .len
  | .result => s.readReg .result
  | .sel => s.readReg .sel
  | .selpoly => s.readReg .selpoly
  | .tblidx => s.readReg .tblidx
  | .reserved => s.readReg .reserved

/-! ### The end of a command -/

/-- COMPLETE(code) (spec/43_dispatch_and_commands.md R171). `raise Error(code)` is this and the end of the command: the one
shared way a command fails, which writes STATUS and nothing else (spec/60_exceptions.md R207). -/
def State.complete (s : State) (code : ErrCode) : State := { s with status := statusComplete code s.status }

/-- Take a free value: the next of `Config.freeWord` (spec/20_memory.md R55; log entry 7). -/
def State.draw (s : State) : State × Word := ({ s with draws := s.draws + 1 }, Config.freeWord s.draws)

/-! ### Reset (spec/70_reset_and_hazards.md R230) -/

/-- The reset action: the capability bits are latched from the straps, every slot becomes invalid, every register becomes 0.
What is not block state (the pins, BASE, MEM_ADMIT, MEM and the model's own fields) keeps its value (log entry 17). -/
def State.resetAction (s : State) : State :=
  { s with
    capHw := s.strapHw, capWide := s.strapWide
    slots := SlotStore.empty
    status := 0, poly := 0, seed := 0, addr := 0, len := 0, result := 0, sel := 0, selpoly := 0, tblidx := 0 }

/-! ### Outcomes -/

/-- Go on from a next state; a fault or a refusal stays. -/
def thenNext (o : Host.Outcome State Fault Refusal) (f : State → State) : Host.Outcome State Fault Refusal :=
  match o with
  | .next s => .next (f s)
  | .fault r => .fault r
  | .refused r => .refused r

end Sys2Proof.Machine
end

