-- ==== Sys2Proof/Machine/Operands.lean ====
section
/-! DEFINITION. The operands of HASH: the buffer footprint, the checks on it, MemRead, and the chunks the hardware engine forms
(spec/20_memory.md R50 to R58; spec/43_dispatch_and_commands.md R169). -/
namespace Sys2Proof.Machine

/-- The buffer addresses `a, a+1, …, a+n−1`, ascending (R54). -/
def footprint (a n : Nat) : List Nat := List.range' a n

/-- HASH's first buffer byte address, ADDR as it stands (R60, spec/30_encoding.md R73). -/
def State.hashStart (s : State) : Nat := s.addr.toNat

/-- HASH's byte count, LEN (spec/30_encoding.md R73). -/
def State.hashCount (s : State) : Nat := s.len.toNat

/-- The footprint of HASH, [ADDR, ADDR+LEN) (R54). -/
def State.hashFootprint (s : State) : List Nat := footprint s.hashStart s.hashCount

/-- `n > 0 and a + n > 2^32` (R57). -/
def State.hashOutOfRange (s : State) : Bool :=
  decide (0 < s.hashCount ∧ s.hashStart + s.hashCount > addressSpace)

/-- Some address of the footprint is not readable (R58). With LEN = 0 the footprint is empty. -/
def State.hashUnreadable (s : State) : Bool := s.hashFootprint.any (fun a => !s.memAdmit a)

/-- Whether an overlapped event stores into the addresses. -/
def Overlap.hits (addrs : List Nat) : Overlap → Bool
  | .store a _ => addrs.contains a.toNat
  | .access _ => false

/-- Another agent writes a byte of the footprint while HASH executes (R55). -/
def State.hashRaced (s : State) : Bool := s.overlap.any (Overlap.hits s.hashFootprint)

/-- MemRead(a, n) (R50): the bytes at `a` to `a+n−1`, lowest address first. The addresses go into the read log, in the order
they are read (R54; log entry 11). -/
def State.memRead (s : State) (a n : Nat) : State × List Byte :=
  ({ s with reads := s.reads ++ footprint a n }, (footprint a n).map s.mem.byteAt)

/-- `le(s)` of spec/00_scope.md R11: byte k has weight 2^(8k). -/
def le : List Byte → Nat
  | [] => 0
  | b :: rest => b.toNat + 256 * le rest

/-- A little-endian 4-byte chunk: the byte at the lowest address is bits 7:0 (R51). -/
def chunk4 (b0 b1 b2 b3 : Byte) : BitVec 32 :=
  b0.setWidth 32 ||| (b1.setWidth 32 <<< 8) ||| (b2.setWidth 32 <<< 16) ||| (b3.setWidth 32 <<< 24)

/-- A little-endian 8-byte chunk (R51): the four bytes at the lower addresses are bits 31:0. -/
def chunk8 (b0 b1 b2 b3 b4 b5 b6 b7 : Byte) : BitVec 64 :=
  (chunk4 b0 b1 b2 b3).setWidth 64 ||| ((chunk4 b4 b5 b6 b7).setWidth 64 <<< 32)

/-- `byte k of v`, `v[8k+7:8k]` (spec/00_scope.md R9). -/
def byteOf (v : Word) (k : Nat) : Byte := v.extractLsb' (8 * k) 8

end Sys2Proof.Machine
end

