-- ==== Sys2Proof/Machine/TableBuilder.lean ====
section
/-! DEFINITION. The table builder (spec/40_table_builder.md R100 to R107) and the well-known polynomial values
(spec/43_dispatch_and_commands.md R160; log entry 15). -/
namespace Sys2Proof.Machine

/-- POLY_CRC32_NORMAL (R160). -/
def polyCrc32Normal : Word := 0x04C11DB7#32

/-- POLY_CRC32_ZIP (R160). -/
def polyCrc32Zip : Word := 0xEDB88320#32

/-- POLY_CRC32C (R160). -/
def polyCrc32c : Word := 0x82F63B78#32

/-- POLY_CRC32C_NORMAL (R160). -/
def polyCrc32cNormal : Word := 0x1EDC6F41#32

/-- STEP1 (R100): one bit of CRC reduction. -/
def step1 (v p : Word) : Word := if v.getLsbD 0 then (v >>> 1) ^^^ p else v >>> 1

/-- `n` applications of STEP1. -/
def stepBits : Nat → Word → Word → Word
  | 0, v, _ => v
  | n + 1, v, p => stepBits n (step1 v p) p

/-- REDUCE8 (R101): eight bits of reduction. -/
def reduce8 (v p : Word) : Word := stepBits 8 v p

/-- `REDUCE8^n`, n applications of REDUCE8. -/
def reduce8Iter : Nat → Word → Word → Word
  | 0, v, _ => v
  | n + 1, v, p => reduce8Iter n (reduce8 v p) p

/-- One entry of a table (R102): `T[t][i] = REDUCE8^(t+1)(zext_32(i), p)`. -/
def buildEntry (p : Word) (t : Nat) (i : Nat) : Word := reduce8Iter (t + 1) (BitVec.ofNat 32 i) p

/-- Slice `t` of the table of polynomial `p`: its 256 entries. -/
def buildSlice (p : Word) (t : Nat) : Vector Word 256 :=
  ⟨((List.range 256).map (buildEntry p t)).toArray, by simp⟩

/-- BUILD (R102): the table of polynomial `p`, which is used as it stands, never bit-reversed (R105). A pure function of `p`
(R106). -/
def build (p : Word) : Table := ⟨((List.range 16).map (buildSlice p)).toArray, by simp⟩

end Sys2Proof.Machine
end

