-- ==== Sys2Proof/Machine/HwAccel.lean ====
section
/-! DEFINITION. The hardware-accelerated CRC-32C engine (spec/42_hardware_accel.md R140 to R148). It owns no table. -/
namespace Sys2Proof.Machine

/-- CRC32C_U8 (R140): the native 1-byte step. -/
def crc32cU8 (crc : Word) (x : Byte) : Word := reduce8 (crc ^^^ x.setWidth 32) polyCrc32c

/-- CRC32C_U32 (R141): the native narrow step, low byte of the chunk first. -/
def crc32cU32 (crc : Word) (w : BitVec 32) : Word :=
  crc32cU8 (crc32cU8 (crc32cU8 (crc32cU8 crc (w.extractLsb' 0 8)) (w.extractLsb' 8 8)) (w.extractLsb' 16 8)) (w.extractLsb' 24 8)

/-- CRC32C_U64 (R142): the native wide step, low half of the chunk first. -/
def crc32cU64 (crc : Word) (q : BitVec 64) : Word :=
  crc32cU32 (crc32cU32 crc (q.extractLsb' 0 32)) (q.extractLsb' 32 32)

/-- The 8-byte loop of R143, with the bytes left over. -/
def hwLoop8 : Word → List Byte → Word × List Byte
  | crc, b0 :: b1 :: b2 :: b3 :: b4 :: b5 :: b6 :: b7 :: rest => hwLoop8 (crc32cU64 crc (chunk8 b0 b1 b2 b3 b4 b5 b6 b7)) rest
  | crc, rest => (crc, rest)

/-- The 4-byte loop of R143, with the bytes left over. -/
def hwLoop4 : Word → List Byte → Word × List Byte
  | crc, b0 :: b1 :: b2 :: b3 :: rest => hwLoop4 (crc32cU32 crc (chunk4 b0 b1 b2 b3)) rest
  | crc, rest => (crc, rest)

/-- The 1-byte loop of R143. -/
def hwLoop1 : Word → List Byte → Word
  | crc, [] => crc
  | crc, x :: rest => hwLoop1 (crc32cU8 crc x) rest

/-- HW_ENGINE (R143). The 8-byte loop runs only on the wide tier (R144). -/
def hwEngine (data : List Byte) (seed : Word) (wide : Bool) : Word :=
  let m8 := if wide then hwLoop8 (~~~seed) data else (~~~seed, data)
  let m4 := hwLoop4 m8.1 m8.2
  ~~~(hwLoop1 m4.1 m4.2)

end Sys2Proof.Machine
end

