-- ==== Sys2Proof/Machine/Mux.lean ====
section
/-! DEFINITION. The polynomial dispatch mux and the commands that select a calculator: GET and SELECT 0 to 4
(spec/43_dispatch_and_commands.md R160 to R168). -/
namespace Sys2Proof.Machine

/-- MUX(p) (R162): the slot chosen by `get(p)`, by equality of all 32 bits. -/
def mux (p : Word) : SlotId :=
  if p = polyCrc32Normal then .known .crc32Normal
  else if p = polyCrc32Zip then .known .crc32Zip
  else if p = polyCrc32c then .known .crc32cBest
  else if p = polyCrc32cNormal then .known .crc32cNormal
  else .scratch

/-- POLY_OF(k) (R163). -/
def WellKnown.poly : WellKnown → Word
  | .crc32Normal => polyCrc32Normal
  | .crc32Zip => polyCrc32Zip
  | .crc32c => polyCrc32c
  | .crc32cNormal => polyCrc32cNormal
  | .crc32cBest => polyCrc32c

/-- A fresh table-backed calculator, `{ valid: 1, kind: TABLE, poly: p, table: BUILD(p) }` (R163, R165). -/
def tableCalculator (p : Word) : Calculator := .table p (build p)

/-- RESOLVE_BEST() (R164): hardware-backed when `capHw`, else table-backed. -/
def resolveBest (capHw : Bool) : Calculator := if capHw then .hardware polyCrc32c else tableCalculator polyCrc32c

/-- The calculator the first request of a well-known slot constructs (R163, R164). -/
def WellKnown.construct (w : WellKnown) (capHw : Bool) : Calculator :=
  match w with
  | .crc32Normal => tableCalculator polyCrc32Normal
  | .crc32Zip => tableCalculator polyCrc32Zip
  | .crc32c => tableCalculator polyCrc32c
  | .crc32cNormal => tableCalculator polyCrc32cNormal
  | .crc32cBest => resolveBest capHw

/-- The calculator of a well-known slot after ENSURE_BUILT: the one it holds, or a fresh one (R163). -/
def State.builtCalculator (s : State) (w : WellKnown) : Calculator :=
  match s.slots.get (.known w) with
  | some c => c
  | none => w.construct s.capHw

/-- ENSURE_BUILT(k) (R163): a valid slot stays as it is, an invalid one is built. -/
def State.ensureBuilt (s : State) (w : WellKnown) : State :=
  match s.slots.get (.known w) with
  | some _ => s
  | none => s.setSlot (.known w) (w.construct s.capHw)

/-- SELECT_SLOT(k) (R166), where `c` is the calculator that slot `k` holds. -/
def State.selectSlot (s : State) (k : SlotId) (c : Calculator) : State :=
  { s with sel := selWord k.num c.isHardware, selpoly := c.poly }

/-- ENSURE_BUILT(k), SELECT_SLOT(k) and COMPLETE(0) for a well-known slot (R168). -/
def State.selectKnown (s : State) (w : WellKnown) : State :=
  ((s.ensureBuilt w).selectSlot (.known w) (s.builtCalculator w)).complete .ok

/-- GET of an unrecognised polynomial: rebuild slot 5, select it, complete (R165, R167). -/
def State.selectScratch (s : State) (p : Word) : State :=
  ((s.setSlot .scratch (tableCalculator p)).selectSlot .scratch (tableCalculator p)).complete .ok

/-- What GET does to the state (R167). -/
def State.getCalculator (s : State) : State :=
  match mux s.poly with
  | .known w => s.selectKnown w
  | .scratch => s.selectScratch s.poly

/-- GET (R167). -/
def execGet (s : State) : Host.Outcome State Fault Refusal := .next s.getCalculator

/-- SELECT 0, `select crc32_normal` (R168). -/
def execSelectCrc32Normal (s : State) : Host.Outcome State Fault Refusal := .next (s.selectKnown .crc32Normal)

/-- SELECT 1, `select crc32_zip` (R168). -/
def execSelectCrc32Zip (s : State) : Host.Outcome State Fault Refusal := .next (s.selectKnown .crc32Zip)

/-- SELECT 2, `select crc32c` (R168). -/
def execSelectCrc32c (s : State) : Host.Outcome State Fault Refusal := .next (s.selectKnown .crc32c)

/-- SELECT 3, `select crc32c_normal` (R168). -/
def execSelectCrc32cNormal (s : State) : Host.Outcome State Fault Refusal := .next (s.selectKnown .crc32cNormal)

/-- SELECT 4, `select crc32c_best` (R168; R164 decides its kind once). -/
def execSelectCrc32cBest (s : State) : Host.Outcome State Fault Refusal := .next (s.selectKnown .crc32cBest)

end Sys2Proof.Machine
end

