-- ==== Sys2Proof/Machine/SliceBy16.lean ====
section
/-! DEFINITION. The slice-by-16 engine (spec/41_slice_by_16_engine.md R120 to R131) and the reference it must equal (R126).
The byte offset `off` of R120 is the position in the list of bytes still to fold (spec/10_state.md R37). -/
namespace Sys2Proof.Machine

/-- S16_TAIL (R123): fold one byte. -/
def s16Tail (T : Table) (crc : Word) (x : Byte) : Word :=
  T.entry 0 (byteOf (crc ^^^ x.setWidth 32) 0) ^^^ (crc >>> 8)

/-- S16_BLOCK (R122): fold the 16 bytes of one window, `b0` at the lowest address. -/
def s16Block (T : Table) (crc : Word) (b0 b1 b2 b3 b4 b5 b6 b7 b8 b9 b10 b11 b12 b13 b14 b15 : Byte) : Word :=
  let a := T.entry 3 b12 ^^^ T.entry 2 b13 ^^^ T.entry 1 b14 ^^^ T.entry 0 b15
  let b := T.entry 7 b8 ^^^ T.entry 6 b9 ^^^ T.entry 5 b10 ^^^ T.entry 4 b11
  let c := T.entry 11 b4 ^^^ T.entry 10 b5 ^^^ T.entry 9 b6 ^^^ T.entry 8 b7
  let d := T.entry 15 (b0 ^^^ byteOf crc 0) ^^^ T.entry 14 (b1 ^^^ byteOf crc 1)
    ^^^ T.entry 13 (b2 ^^^ byteOf crc 2) ^^^ T.entry 12 (b3 ^^^ byteOf crc 3)
  a ^^^ b ^^^ c ^^^ d

/-- The tail loop (R120, R125): one S16_TAIL a byte. -/
def s16TailLoop (T : Table) : Word → List Byte → Word
  | crc, [] => crc
  | crc, x :: rest => s16TailLoop T (s16Tail T crc x) rest

/-- The main loop (R120, R125): one S16_BLOCK for each whole window of 16 bytes. It gives the running value and the bytes left
over. -/
def s16MainLoop (T : Table) : Word → List Byte → Word × List Byte
  | crc, b0 :: b1 :: b2 :: b3 :: b4 :: b5 :: b6 :: b7 :: b8 :: b9 :: b10 :: b11 :: b12 :: b13 :: b14 :: b15 :: rest =>
    s16MainLoop T (s16Block T crc b0 b1 b2 b3 b4 b5 b6 b7 b8 b9 b10 b11 b12 b13 b14 b15) rest
  | crc, rest => (crc, rest)

/-- S16_ENGINE (R120): initialise with the complement of the seed (R121), fold, complement (R124). -/
def s16Engine (T : Table) (data : List Byte) (seed : Word) : Word :=
  let m := s16MainLoop T (~~~seed) data
  ~~~(s16TailLoop T m.1 m.2)

/-- The byte step of REFCRC: `REDUCE8(crc ^ zext_32(x), p)` (R126). -/
def refStep (p crc : Word) (x : Byte) : Word := reduce8 (crc ^^^ x.setWidth 32) p

/-- REFCRC (R126): the classical bit-at-a-time CRC for the same polynomial and seed. -/
def refCrc (p : Word) (data : List Byte) (seed : Word) : Word := ~~~(data.foldl (refStep p) (~~~seed))

end Sys2Proof.Machine
end

