-- ==== Sys2Proof/Machine/HashCommand.lean ====
section
/-! DEFINITION. The command HASH (spec/43_dispatch_and_commands.md R169; spec/60_exceptions.md R203 to R206). -/
namespace Sys2Proof.Machine

/-- The checksum a calculator gives (R169): slice-by-16 for a table, the native engine for hardware. -/
def Calculator.checksum (c : Calculator) (data : List Byte) (seed : Word) (wide : Bool) : Word :=
  match c with
  | .table _ T => s16Engine T data seed
  | .hardware _ => hwEngine data seed wide

/-- The value HASH writes to RESULT from the bytes it has read. It is a free value where another agent wrote the footprint
meanwhile (spec/20_memory.md R55), and where SEL names a slot that is not valid, whose contents the spec leaves unspecified
and which no run reaches (spec/10_state.md R39; log entry 8). -/
def State.hashResult (s : State) (data : List Byte) : State × Word :=
  if s.hashRaced then s.draw
  else
    match s.calculatorAt (selSlot s.sel) with
    | some c => (s, c.checksum data s.seed (s.capHw && s.capWide))
    | none => s.draw

/-- HASH once its checks have passed (R169): read the footprint, compute, write RESULT, COMPLETE(0). -/
def State.hashBuffer (s : State) : State :=
  let m := s.memRead s.hashStart s.hashCount
  let r := m.1.hashResult m.2
  { r.1 with result := r.2 }.complete .ok

/-- What HASH does to the state: the checks in the order of spec/60_exceptions.md R206, then the computation. -/
def State.hashCommand (s : State) : State :=
  if !selValid s.sel then s.complete .noSel
  else if s.hashOutOfRange then s.complete .range
  else if s.hashUnreadable then s.complete .bus
  else s.hashBuffer

/-- HASH (R169). -/
def execHash (s : State) : Host.Outcome State Fault Refusal := .next s.hashCommand

end Sys2Proof.Machine
end

