-- ==== Sys2Proof/Machine/Dispatch.lean ====
section
/-! DEFINITION. exec: one arm per command (spec/43_dispatch_and_commands.md R170). -/
namespace Sys2Proof.Machine

def exec (i : Instr) (s : State) : Host.Outcome State Fault Refusal :=
  match i with
  | .get => Sys2Proof.Machine.execGet s
  | .selectCrc32Normal => Sys2Proof.Machine.execSelectCrc32Normal s
  | .selectCrc32Zip => Sys2Proof.Machine.execSelectCrc32Zip s
  | .selectCrc32c => Sys2Proof.Machine.execSelectCrc32c s
  | .selectCrc32cNormal => Sys2Proof.Machine.execSelectCrc32cNormal s
  | .selectCrc32cBest => Sys2Proof.Machine.execSelectCrc32cBest s
  | .hash => Sys2Proof.Machine.execHash s

end Sys2Proof.Machine
end

