-- ==== Sys2Proof/Machine/Bus.lean ====
section
/-! DEFINITION. What one bus event does: host register accesses (spec/10_state.md R21, R22, R35), the execution of a command
(spec/43_dispatch_and_commands.md R170), stores by other bus masters, the strap pins and reset. -/
namespace Sys2Proof.Machine

/-! ### Where a host access goes -/

/-- What a host access reaches. -/
inductive Target where
  /-- No byte of the register window: another device's access. -/
  | elsewhere
  /-- The window, but not as one aligned 32-bit word of it: R35 gives no step. -/
  | malformed
  /-- A register of the window. -/
  | register (r : HostReg)
deriving DecidableEq, Repr

/-- The target of an access of `width` bytes at a byte offset of the window (R35). -/
def targetOfOffset (width o : Nat) : Target :=
  if width = 4 then
    match HostReg.ofOffset o with
    | some r => .register r
    | none => .malformed
  else .malformed

/-- The target of a host access, the window being the 64 bytes at `base` (R21, R42; log entries 6 and 12). -/
def HostAccess.target (base : Nat) (acc : HostAccess) : Target :=
  match acc.addr with
  | .offset o => targetOfOffset acc.width o
  | .platform a =>
    if a + acc.width ≤ base ∨ base + 64 ≤ a then .elsewhere
    else if a < base then .malformed
    else targetOfOffset acc.width (a - base)

/-! ### While a command executes -/

/-- A host access that finds STATUS.BUSY = 1 (spec/70_reset_and_hazards.md R236): a write is dropped, a read gives what
`readRegBusy` says. -/
def State.busyAccess (s : State) (acc : HostAccess) : State :=
  match acc.target s.base with
  | .elsewhere => s
  | .malformed => s
  | .register r =>
    match acc.op with
    | .read => { s with rdata := s.readRegBusy r }
    | .write _ => s
    | .writeBack => s

/-- What an overlapped event does before the command completes: an access is answered (R236); a store is seen by HASH
through `hashRaced` (R55) and lands when the command is over (log entry 7). -/
def State.overlapped (s : State) : Overlap → State
  | .store _ _ => s
  | .access acc => s.busyAccess acc

/-- The start of ON_CMD_WRITE (R170): BUSY rises and DONE falls, then the overlapped accesses are answered. The read log starts
anew. -/
def State.beginCommand (s : State) : State :=
  s.overlap.foldl State.overlapped { s with status := statusBegin s.status, reads := [] }

/-- The memory after an overlapped event. -/
def Overlap.land (m : Memory) : Overlap → Memory
  | .store a b => m.store a.toNat b
  | .access _ => m

/-- The overlapped stores land in memory, oldest first, and the overlap is over. -/
def State.settle (s : State) : State := { s with mem := s.overlap.foldl Overlap.land s.mem, overlap := [] }

/-- ON_CMD_WRITE(w) (R170), one atomic step: decode and execute, or end with ERR_ILLEGAL (spec/60_exceptions.md R202). -/
def State.onCmdWrite (s : State) (w : Word) : Host.Outcome State Fault Refusal :=
  match decode w with
  | .ok i => thenNext (exec i s.beginCommand) State.settle
  | .error _ => .next (s.beginCommand.complete .illegal).settle

/-! ### Host accesses between commands -/

/-- A host write of `v` to a register: to CMD it starts a command (R22), else it is `writeReg`. -/
def State.hostWrite (s : State) (r : HostReg) (v : Word) : Host.Outcome State Fault Refusal :=
  if r = .cmd then s.onCmdWrite v else .next (s.writeReg r v)

/-- One host access (R35). A read returns the register's current value and has no side effect on the block. -/
def State.hostAccess (s : State) (acc : HostAccess) : Host.Outcome State Fault Refusal :=
  match acc.target s.base with
  | .elsewhere => .next s
  | .malformed => .refused .hostAccess
  | .register r =>
    match acc.op with
    | .read => .next { s with rdata := s.readReg r }
    | .write v => s.hostWrite r v
    | .writeBack => s.hostWrite r s.rdata

/-- Arm an overlapped event for the next command; an overlapped host access must itself be one that R35 gives a step. -/
def State.arm (s : State) (o : Overlap) : Host.Outcome State Fault Refusal :=
  match o with
  | .store _ _ => .next { s with overlap := s.overlap ++ [o] }
  | .access acc =>
    match acc.target s.base with
    | .elsewhere => .next { s with overlap := s.overlap ++ [o] }
    | .malformed => .refused .hostAccess
    | .register _ => .next { s with overlap := s.overlap ++ [o] }

/-! ### Events -/

/-- What one bus event does. -/
def State.runEvent (s : State) (e : BusEvent) : Host.Outcome State Fault Refusal :=
  match e with
  | .host acc => s.hostAccess acc
  | .during o => s.arm o
  | .store a b => .next { s with mem := s.mem.store a.toNat b }
  | .straps hw wide => .next { s with strapHw := hw, strapWide := wide }
  | .reset => .next s.resetAction
  | .cmdCut _ => .next s.beginCommand.settle.resetAction

/-- The host transaction `W <off> <v>` of spec/30_encoding.md R78. -/
def writeEvent (off : Nat) (v : Word) : BusEvent := .host { addr := .offset off, width := 4, op := .write v }

/-- The host transaction `R <off>` of spec/30_encoding.md R78. -/
def readEvent (off : Nat) : BusEvent := .host { addr := .offset off, width := 4, op := .read }

/-- The host's write of a table word to CMD, which is how the block gets an instruction (spec/20_memory.md R65). -/
def fetchEvent (nbits w : Nat) : BusEvent := writeEvent 0x00 (wordOfTable nbits w)

end Sys2Proof.Machine
end

