-- ==== Sys2Proof/Machine/Step.lean ====
section
/-! DEFINITION. The step of the machine: the oldest bus event of the inbox happens (spec/00_scope.md R12; log entries 1 and 2).
A command arrives as the data of a host write to CMD (spec/20_memory.md R65), so there is no fetch from memory. -/
namespace Sys2Proof.Machine

/-- One step. With no event left the block is idle and keeps all its state (spec/60_exceptions.md R218). -/
def step (s : State) : Host.Outcome State Fault Refusal :=
  match s.inbox with
  | [] => .next s
  | e :: rest => State.runEvent { s with inbox := rest } e

/-- The state with a host write of the given word to CMD as the very next bus event (log entry 1). -/
def State.withFetchWord (s : State) (nbits w : Nat) : State := { s with inbox := fetchEvent nbits w :: s.inbox }

end Sys2Proof.Machine
end

