-- ==== Sys2Proof/Machine/HostProgram.lean ====
section
/-! DEFINITION. The host-program notation and its pseudo-instructions, as the bus transactions they stand for
(spec/30_encoding.md R78, R79). -/
namespace Sys2Proof.Machine

/-- The offset of a register (spec/10_state.md R21); the reserved offsets are represented by the first, 0x30. -/
def HostReg.offset : HostReg → Nat
  | .cmd => 0x00
  | .status => 0x04
  | .cap => 0x08
  | .poly => 0x0C
  | .seed => 0x10
  | .addr => 0x14
  | .len => 0x18
  | .result => 0x1C
  | .sel => 0x20
  | .selpoly => 0x24
  | .tblidx => 0x28
  | .tbldata => 0x2C
  | .reserved => 0x30

/-- One line of a host program (R78, R79). -/
inductive HostLine where
  /-- `wr NAME, v` -/
  | wr (r : HostReg) (v : Word)
  /-- `rd NAME` -/
  | rd (r : HostReg)
  /-- `cmd w` -/
  | cmd (w : Word)
  /-- `poll`: in the atomic model one read of STATUS -/
  | poll
  /-- `get p` -/
  | get (p : Word)
  /-- `select crc32_normal` and the other four -/
  | select (w : WellKnown)
  /-- `hash a, n, s` -/
  | hash (a n s : Word)
  /-- `hash_next a, n`: seed chaining -/
  | hashNext (a n : Word)
  /-- `tbl k, t, i` -/
  | tbl (k : BitVec 3) (t : BitVec 4) (i : Byte)
deriving DecidableEq, Repr

/-- `wr NAME, v` as a transaction. -/
def wrEvent (r : HostReg) (v : Word) : BusEvent := writeEvent r.offset v

/-- `rd NAME` as a transaction. -/
def rdEvent (r : HostReg) : BusEvent := readEvent r.offset

/-- The command word of a named accessor (R74). -/
def WellKnown.command : WellKnown → Word
  | .crc32Normal => 0x00000002#32
  | .crc32Zip => 0x00000012#32
  | .crc32c => 0x00000022#32
  | .crc32cNormal => 0x00000032#32
  | .crc32cBest => 0x00000042#32

/-- `(k << 12) | (t << 8) | i` (R79). -/
def tblIndex (k : BitVec 3) (t : BitVec 4) (i : Byte) : Word :=
  (k.setWidth 32 <<< 12) ||| (t.setWidth 32 <<< 8) ||| i.setWidth 32

/-- The transactions of a line (R78, R79). -/
def HostLine.expand : HostLine → List BusEvent
  | .wr r v => [wrEvent r v]
  | .rd r => [rdEvent r]
  | .cmd w => [wrEvent .cmd w]
  | .poll => [rdEvent .status]
  | .get p => [wrEvent .poly p, wrEvent .cmd 0x00000001#32]
  | .select w => [wrEvent .cmd w.command]
  | .hash a n s => [wrEvent .addr a, wrEvent .len n, wrEvent .seed s, wrEvent .cmd 0x00000003#32]
  | .hashNext a n =>
    [rdEvent .result, .host { addr := .offset HostReg.seed.offset, width := 4, op := .writeBack },
     wrEvent .addr a, wrEvent .len n, wrEvent .cmd 0x00000003#32]
  | .tbl k t i => [wrEvent .tblidx (tblIndex k t i), rdEvent .tbldata]

/-- A state whose next bus events are those of a host program. -/
def State.withProgram (s : State) (lines : List HostLine) : State :=
  { s with inbox := lines.flatMap HostLine.expand ++ s.inbox }

end Sys2Proof.Machine
end

