-- ==== Sys2Proof/Safety.lean ====
section
/-! DEFINITION. What a legal state is: the invariant of the block (spec/10_state.md R23, R30, R31, R32, R39, R41), and which
bus events the spec gives a step (R35). -/
namespace Sys2Proof.Machine

/-- STATUS after a command that ended with `code`, ERRSEEN being `seen` (R23). -/
def statusWord (code : ErrCode) (seen : Bool) : Word :=
  (code.num <<< 4) ||| (if seen then 0x100#32 else 0x0#32) ||| 0x2#32

/-- A value STATUS can hold between commands (R23): 0 before the first command, else BUSY = 0, DONE = 1, ERR a code of R201, and
ERRSEEN set if ERR is not 0. -/
def LegalStatus (st : Word) : Prop :=
  st = 0 ∨ ∃ code seen, st = statusWord code seen ∧ (code ≠ .ok → seen = true)

/-- The slot store holds only what construction puts there (R39): a valid well-known slot holds the calculator that
`construct` gives for the latched capability, and a valid SCRATCH holds a table-backed one with the table of its polynomial. -/
structure LegalSlots (t : SlotStore) (capHw : Bool) : Prop where
  known   : ∀ w c, t.get (.known w) = some c → c = w.construct capHw
  scratch : ∀ c, t.get .scratch = some c → ∃ p, c = tableCalculator p

/-- SEL and SELPOLY describe a valid slot, or both are 0 (R30, R31). -/
def LegalSelection (s : State) : Prop :=
  (s.sel = 0 ∧ s.selpoly = 0) ∨
    ∃ k c, s.slots.get k = some c ∧ s.sel = selWord k.num c.isHardware ∧ s.selpoly = c.poly

/-- The invariant of the block between commands. -/
structure State.Inv (s : State) : Prop where
  status    : LegalStatus s.status
  slots     : LegalSlots s.slots s.capHw
  selection : LegalSelection s
  tblidx    : tblidxStored s.tblidx = s.tblidx
  memory    : Memory.wf s.mem

/-- Whether the spec gives a host access a step (R35). -/
def HostAccess.accepted (base : Nat) (acc : HostAccess) : Bool := acc.target base != .malformed

/-- Whether the spec gives an event a step: only a host access can lack one (R35). -/
def BusEvent.accepted (base : Nat) : BusEvent → Bool
  | .host acc => acc.accepted base
  | .during (.store _ _) => true
  | .during (.access acc) => acc.accepted base
  | .store _ _ => true
  | .straps _ _ => true
  | .reset => true
  | .cmdCut _ => true

/-- A safe run so far: the state is legal, and every event still to come is one the spec gives a step. -/
def State.Safe (s : State) : Prop := s.Inv ∧ ∀ e ∈ s.inbox, e.accepted s.base = true

/-- The events that reset the block (spec/70_reset_and_hazards.md R230, R231). -/
def BusEvent.isReset : BusEvent → Bool
  | .reset => true
  | .cmdCut _ => true
  | .host _ => false
  | .during _ => false
  | .store _ _ => false
  | .straps _ _ => false

end Sys2Proof.Machine
end

