-- ==== Sys2Proof/Certificates/Slice0/Obligations.lean ====
section
/-! DEFINITION. The statements for the provers, each a formalisation of numbered rules of spec/. -/

namespace Sys2Proof.Machine

/-! ### Words the statements share -/

/-- The numbers of the completion codes as R201 lists them. -/
def errNumber : ErrCode → BitVec 4
  | .ok => 0#4
  | .illegal => 1#4
  | .noSel => 2#4
  | .range => 3#4
  | .bus => 4#4

/-- STATUS after COMPLETE(code), from STATUS before (R171): BUSY 0, DONE 1, ERR the code, ERRSEEN set by a nonzero code and
otherwise kept, every other bit unchanged. -/
structure Completed (code : ErrCode) (before after : Word) : Prop where
  busy  : statusBusy after = false
  done  : statusDone after = true
  err   : statusErr after = errNumber code
  seen  : statusErrSeen after = (statusErrSeen before || decide (code ≠ .ok))
  other : after &&& 0xFFFFFE0C#32 = before &&& 0xFFFFFE0C#32

/-- What no command changes: the host's operand registers, the capability bits, the parameters, every byte of buffer memory,
and the model's inbox, overlap and read data. -/
structure CommandFrame (s t : State) : Prop where
  poly      : t.poly = s.poly
  seed      : t.seed = s.seed
  addr      : t.addr = s.addr
  len       : t.len = s.len
  tblidx    : t.tblidx = s.tblidx
  capHw     : t.capHw = s.capHw
  capWide   : t.capWide = s.capWide
  strapHw   : t.strapHw = s.strapHw
  strapWide : t.strapWide = s.strapWide
  base      : t.base = s.base
  admits    : t.admits = s.admits
  bytes     : ∀ a, t.mem.byteAt a = s.mem.byteAt a ∧ t.mem.cell a = s.mem.cell a
  inbox     : t.inbox = s.inbox
  overlap   : t.overlap = s.overlap
  rdata     : t.rdata = s.rdata

/-- What GET and SELECT leave unchanged besides: RESULT, and the model's read log and counter. -/
structure SelectFrame (s t : State) : Prop extends CommandFrame s t where
  result : t.result = s.result
  reads  : t.reads = s.reads
  draws  : t.draws = s.draws

/-- What HASH leaves unchanged besides: SEL, SELPOLY and every slot. -/
structure HashFrame (s t : State) : Prop extends CommandFrame s t where
  sel     : t.sel = s.sel
  selpoly : t.selpoly = s.selpoly
  slots   : t.slots = s.slots

/-- The polynomials of slots 0 to 4 as R39 lists them. -/
def wellKnownPoly : WellKnown → Word
  | .crc32Normal => 0x04C11DB7#32
  | .crc32Zip => 0xEDB88320#32
  | .crc32c => 0x82F63B78#32
  | .crc32cNormal => 0x1EDC6F41#32
  | .crc32cBest => 0x82F63B78#32

/-- The SELECT command of each named accessor (R74). -/
def selectInstr : WellKnown → Instr
  | .crc32Normal => .selectCrc32Normal
  | .crc32Zip => .selectCrc32Zip
  | .crc32c => .selectCrc32c
  | .crc32cNormal => .selectCrc32cNormal
  | .crc32cBest => .selectCrc32cBest

/-- The calculator that the first request of a well-known slot builds (R163, R164). -/
def firstCalculator (w : WellKnown) (capHw : Bool) : Calculator :=
  if w = .crc32cBest ∧ capHw = true then .hardware 0x82F63B78#32
  else .table (wellKnownPoly w) (build (wellKnownPoly w))

/-- `t` is `s` after slot `k`, now holding `c`, was selected and the command completed (R166, R171). -/
structure Selected (s t : State) (k : SlotId) (c : Calculator) : Prop where
  slot       : t.slots.get k = some c
  otherSlots : ∀ j, j ≠ k → t.slots.get j = s.slots.get j
  valid      : selValid t.sel = true
  hw         : selHw t.sel = c.isHardware
  slotField  : selSlot t.sel = k.num
  reserved   : t.sel &&& 0xFFFFFF8C#32 = 0
  selpoly    : t.selpoly = c.poly
  status     : Completed .ok s.status t.status
  frame      : SelectFrame s t

/-- The buffer bytes of HASH, `MemRead(ADDR, LEN)` (R50). -/
def bufferBytes (s : State) : List Byte :=
  (List.range s.len.toNat).map (fun j => s.mem.byteAt (s.addr.toNat + j))

/-- HASH's checks pass (R169). -/
structure ChecksPass (s : State) : Prop where
  selected : selValid s.sel = true
  range    : s.len = 0 ∨ s.addr.toNat + s.len.toNat ≤ 2 ^ 32
  readable : ∀ j, j < s.len.toNat → s.memAdmit (s.addr.toNat + j) = true

/-- The address lies in [ADDR, ADDR+LEN). -/
def InBuffer (s : State) (a : Nat) : Prop := s.addr.toNat ≤ a ∧ a < s.addr.toNat + s.len.toNat

/-- No other agent stores into the buffer while the command executes (R55, R234). -/
def Undisturbed (s : State) : Prop := ∀ a b, Overlap.store a b ∈ s.overlap → ¬ InBuffer s a.toNat

/-- A host write to CMD of the word `w` is the oldest event, and `rest` follows. -/
def CmdWriteNext (s : State) (w : Word) (rest : List BusEvent) : Prop :=
  ∃ acc, s.inbox = .host acc :: rest ∧ acc.target s.base = .register .cmd ∧
    (acc.op = .write w ∨ (acc.op = .writeBack ∧ s.rdata = w))

/-- The seven words of R74. -/
def legalWords : List Word :=
  [0x00000001#32, 0x00000002#32, 0x00000012#32, 0x00000022#32, 0x00000032#32, 0x00000042#32, 0x00000003#32]

/-- A command that was the oldest event is over and, of the block, has changed STATUS only. A byte of memory changes only where
another agent stored to it meanwhile, and the host's read data only where another agent accessed the block meanwhile; the read
log is empty. -/
structure OnlyStatusChanged (s t : State) (rest : List BusEvent) : Prop where
  block  : t = { s with inbox := rest, status := t.status, reads := [], rdata := t.rdata, mem := t.mem, overlap := [] }
  bytes  : ∀ a, (∀ c b, Overlap.store c b ∈ s.overlap → c.toNat ≠ a) → t.mem.byteAt a = s.mem.byteAt a
  alone  : s.overlap = [] → t.rdata = s.rdata ∧ t.mem = s.mem

/-- The value of SEL after each SELECT in a legal state (R168). -/
def selAfter (w : WellKnown) (capHw : Bool) : Word :=
  match w with
  | .crc32Normal => 0x00000001#32
  | .crc32Zip => 0x00000011#32
  | .crc32c => 0x00000021#32
  | .crc32cNormal => 0x00000031#32
  | .crc32cBest => if capHw then 0x00000043#32 else 0x00000041#32

/-- A request of a calculator: GET with POLY at a value, or a SELECT. -/
inductive Request where
  | get (p : Word)
  | select (w : WellKnown)
deriving DecidableEq, Repr

/-- The slot a request asks for (R162, R168). -/
def Request.slot : Request → SlotId
  | .get p => mux p
  | .select w => .known w

/-- The polynomial a request selects (R31, R167, R168). -/
def Request.poly : Request → Word
  | .get p => p
  | .select w => wellKnownPoly w

/-- What the host writes to POLY for a request; a SELECT needs nothing there. -/
def Request.written : Request → Option Word
  | .get p => some p
  | .select _ => none

/-- The value of SEL once a slot is selected in a legal state (R30, R166): slot 5 is always table-backed. -/
def selOfSlot (k : SlotId) (capHw : Bool) : Word :=
  match k with
  | .known w => selAfter w capHw
  | .scratch => 0x00000051#32

/-- The polynomial of a GET that names no well-known polynomial. -/
def Request.unrecognised : Request → Option Word
  | .get p => if mux p = .scratch then some p else none
  | .select _ => none

/-- `t` is `s` after the requests, one command each, POLY being written before each GET. -/
def AfterRequests : List Request → State → State → Prop
  | [], s, t => t = s
  | .get p :: rest, s, t => ∃ u, exec .get { s with poly := p } = .next u ∧ AfterRequests rest u t
  | .select w :: rest, s, t => ∃ u, exec (selectInstr w) s = .next u ∧ AfterRequests rest u t

/-- The byte step of the reference CRC over a list (R126). -/
def foldBytes (p crc : Word) (data : List Byte) : Word := data.foldl (fun c x => reduce8 (c ^^^ x.setWidth 32) p) crc

end Sys2Proof.Machine

open Sys2Proof Sys2Proof.Machine

/-! ### Encoding -/

/-- Command words written out from R74 and R75 decode as listed. A sanity statement. -/
def Obligations.WrittenOutCommandWordsDecode : Prop :=
  decode 0x00000001#32 = .ok .get ∧ decode 0x00000002#32 = .ok .selectCrc32Normal ∧
  decode 0x00000012#32 = .ok .selectCrc32Zip ∧ decode 0x00000022#32 = .ok .selectCrc32c ∧
  decode 0x00000032#32 = .ok .selectCrc32cNormal ∧ decode 0x00000042#32 = .ok .selectCrc32cBest ∧
  decode 0x00000003#32 = .ok .hash ∧ decode 0x00000000#32 = .error .operation ∧
  decode 0x00000011#32 = .error .slotNotZero ∧ decode 0x00000052#32 = .error .slotOutOfRange ∧
  decode 0x00000082#32 = .error .reservedBits ∧ decode 0x80000003#32 = .error .reservedBits

/-- R74: the legal words are exactly the seven, by the decoder's field conditions and by value. -/
def Obligations.LegalCommandWordsAreTheSeven : Prop :=
  (∀ w : Word, decode w = .ok .get ↔ (w.extractLsb' 0 4 = 1 ∧ w.extractLsb' 4 28 = 0)) ∧
  (∀ (w : Word) (k : WellKnown), decode w = .ok (selectInstr k) ↔
    (w.extractLsb' 0 4 = 2 ∧ w.extractLsb' 7 25 = 0 ∧ w.extractLsb' 4 3 = k.num)) ∧
  (∀ w : Word, decode w = .ok .hash ↔ (w.extractLsb' 0 4 = 3 ∧ w.extractLsb' 4 28 = 0)) ∧
  (∀ (w : Word) (i : Instr), decode w = .ok i ↔
    (w, i) ∈ [(0x00000001#32, Instr.get), (0x00000002#32, Instr.selectCrc32Normal), (0x00000012#32, Instr.selectCrc32Zip),
      (0x00000022#32, Instr.selectCrc32c), (0x00000032#32, Instr.selectCrc32cNormal),
      (0x00000042#32, Instr.selectCrc32cBest), (0x00000003#32, Instr.hash)])

/-- Decode and encode are inverse to each other, and so are taking a word apart into the fields of R70 and putting it together:
no bit of a command word is dropped. -/
def Obligations.DecodeAndEncodeAreInverse : Prop :=
  (∀ i, decode (encode i) = .ok i) ∧ (∀ w i, decode w = .ok i → encode i = w) ∧
  (∀ w, (CommandWord.ofWord w).toWord = w) ∧ (∀ c, CommandWord.ofWord c.toWord = c)

/-- A word decodes exactly if its fields pass the checks of format CW (R70, R72). -/
def Obligations.WordDecodesIffFieldsWellFormed : Prop :=
  ∀ w, (CommandWord.ofWord w).wf = true ↔ ∃ i, decode w = .ok i

/-- R75, R202: the words not listed in R74 are those with an illegal OP, a nonzero reserved bit, a nonzero SLOT in GET or HASH, or
SLOT 5 to 7 in SELECT; a CMD write of one ends with ERR_ILLEGAL and changes nothing else of the block. (What other agents do
meanwhile still happens: their reads are answered and their stores land.) -/
def Obligations.IllegalWordEndsWithErrIllegal : Prop :=
  ∀ w : Word,
    (w ∉ legalWords ↔
      ((w.extractLsb' 0 4 ≠ 1 ∧ w.extractLsb' 0 4 ≠ 2 ∧ w.extractLsb' 0 4 ≠ 3) ∨ w.extractLsb' 7 25 ≠ 0 ∨
        ((w.extractLsb' 0 4 = 1 ∨ w.extractLsb' 0 4 = 3) ∧ w.extractLsb' 4 3 ≠ 0) ∨
        (w.extractLsb' 0 4 = 2 ∧ 5 ≤ (w.extractLsb' 4 3).toNat))) ∧
    ∀ (s : State) (rest : List BusEvent), CmdWriteNext s w rest → w ∉ legalWords →
      ∃ t, step s = .next t ∧ Completed .illegal s.status t.status ∧ OnlyStatusChanged s t rest

/-! ### The step -/

/-- A CMD write of a word that decodes to `i` runs `exec i` (R22, R65), with the start of ON_CMD_WRITE before it (R170). That the
overlapped stores land after it (State.settle) is the model's choice (log entry 7), and so is the way withFetchWord places the word
that the next step runs (log entry 1). -/
def Obligations.StepRunsTheDecodedCommand : Prop :=
  (∀ (s : State) (w : Word) (rest : List BusEvent) (i : Instr), CmdWriteNext s w rest → decode w = .ok i →
    step s = thenNext (exec i (State.beginCommand { s with inbox := rest })) State.settle) ∧
  (∀ (s : State) (nbits w : Nat) (i : Instr), decodeTableWord nbits w = some i →
    step (s.withFetchWord nbits w) = thenNext (exec i s.beginCommand) State.settle)

/-- The start of a command (R170): BUSY becomes 1 and DONE 0, no other bit of STATUS changes, and no other register, slot,
parameter or byte of memory. -/
def Obligations.CommandStartRaisesBusy : Prop :=
  ∀ s : State, statusBusy s.beginCommand.status = true ∧ statusDone s.beginCommand.status = false ∧
    s.beginCommand.status &&& 0xFFFFFFFC#32 = s.status &&& 0xFFFFFFFC#32 ∧
    s.beginCommand = { s with status := s.beginCommand.status, reads := [], rdata := s.beginCommand.rdata } ∧
    (s.overlap = [] → s.beginCommand.rdata = s.rdata)

/-- The end of a command's step: overlapped stores reach memory, the last one to an address wins, and nothing else changes. The
order is the model's choice (log entry 7). -/
def Obligations.OverlappedStoresLand : Prop :=
  ∀ s : State, s.settle = { s with mem := s.settle.mem, overlap := [] } ∧
    (∀ a, (∀ c b, Overlap.store c b ∈ s.overlap → c.toNat ≠ a) → s.settle.mem.byteAt a = s.mem.byteAt a) ∧
    (∀ (pre post : List Overlap) (c : Word) (b : Byte), s.overlap = pre ++ Overlap.store c b :: post →
      (∀ d e, Overlap.store d e ∈ post → d ≠ c) → s.settle.mem.byteAt c.toNat = b)

/-- R35: a step refuses exactly where its event is a host access (now, or armed for the next command) that is not a 32-bit access
at a word-aligned offset of the window; every other step answers a next state. That an armed access is refused when it is armed is the
model's choice (log entry 12). -/
def Obligations.StepRefusesExactlyMalformedAccesses : Prop :=
  ∀ s : State, (∃ t, step s = .next t) ↔ (∀ e rest, s.inbox = e :: rest → e.accepted s.base = true)

/-- R35, R21: an access by window offset reaches a register exactly if it is 4 bytes wide at a multiple of 4 up to 0x3C, and is
malformed otherwise; an access of any width above 0 at a platform address inside the window reaches what the offset from BASE
reaches. The model's choices: an access that touches no byte of the window is elsewhere, and no other is (log entry 6), so that one
which begins below the window and reaches into it is malformed (log entry 12). -/
def Obligations.AccessTargetsFollowTheWindow : Prop :=
  (∀ (base o width : Nat) (op : HostOp),
    ((∃ r, HostAccess.target base { addr := .offset o, width := width, op := op } = .register r) ↔
      (width = 4 ∧ o % 4 = 0 ∧ o ≤ 0x3C)) ∧
    (¬ (width = 4 ∧ o % 4 = 0 ∧ o ≤ 0x3C) →
      HostAccess.target base { addr := .offset o, width := width, op := op } = .malformed)) ∧
  (∀ (base o width : Nat) (op : HostOp), o < 64 → 0 < width →
    HostAccess.target base { addr := .platform (base + o), width := width, op := op } =
      HostAccess.target base { addr := .offset o, width := width, op := op }) ∧
  (∀ (base a width : Nat) (op : HostOp), a < base → base < a + width →
    HostAccess.target base { addr := .platform a, width := width, op := op } = .malformed) ∧
  (∀ (base a width : Nat) (op : HostOp),
    HostAccess.target base { addr := .platform a, width := width, op := op } = .elsewhere ↔
      (a + width ≤ base ∨ base + 64 ≤ a))

/-- The steps in which the block itself does nothing. R218: with no event on the bus it keeps all its state. R12 (c), R62: a store by
another bus master between commands changes the byte at its address and nothing else. The model's choices: a host access that
misses the window changes nothing, not even the host's read data (log entry 6), and the arming of an overlap is only remembered
(log entry 7). -/
def Obligations.IdleStepKeepsEverything : Prop :=
  (∀ s : State, s.inbox = [] → step s = .next s) ∧
  (∀ (s : State) (acc : HostAccess) (rest : List BusEvent), s.inbox = .host acc :: rest → acc.target s.base = .elsewhere →
    step s = .next { s with inbox := rest }) ∧
  (∀ (s : State) (o : Overlap) (rest : List BusEvent), s.inbox = .during o :: rest →
    (BusEvent.during o).accepted s.base = true → step s = .next { s with inbox := rest, overlap := s.overlap ++ [o] }) ∧
  (∀ (s : State) (a : Word) (b : Byte) (rest : List BusEvent), s.inbox = .store a b :: rest →
    ∃ t, step s = .next t ∧ t = { s with inbox := rest, mem := t.mem } ∧ t.mem.byteAt a.toNat = b ∧
      (∀ c, c ≠ a.toNat → t.mem.byteAt c = s.mem.byteAt c ∧ t.mem.cell c = s.mem.cell c) ∧ (s.mem.wf → t.mem.wf))

/-! ### GET and SELECT -/

/-- R162: MUX by exact equality of 32 bits; slot 2 is never chosen. -/
def Obligations.MuxChoosesByExactValue : Prop :=
  mux 0x04C11DB7#32 = .known .crc32Normal ∧ mux 0xEDB88320#32 = .known .crc32Zip ∧
  mux 0x82F63B78#32 = .known .crc32cBest ∧ mux 0x1EDC6F41#32 = .known .crc32cNormal ∧
  (∀ p, p ≠ 0x04C11DB7#32 → p ≠ 0xEDB88320#32 → p ≠ 0x82F63B78#32 → p ≠ 0x1EDC6F41#32 → mux p = .scratch) ∧
  (∀ p, mux p ≠ .known .crc32c)

/-- R165, R167: GET is the word 0x00000001 and completes in every state: the slot MUX chooses holds a calculator, built if it was
invalid and always rebuilt in slot 5, and is selected; nothing else changes. In a legal state SELPOLY is then POLY, and for
0x82F63B78 SEL.HW is CAP.HW_CRC32C. -/
def Obligations.GetSelectsThePolynomialsCalculator : Prop :=
  (∀ w, decode w = .ok .get ↔ w = 0x00000001#32) ∧
  ∀ s : State, ∃ t c, exec .get s = .next t ∧ Selected s t (mux s.poly) c ∧
    (mux s.poly = .scratch → c = .table s.poly (build s.poly)) ∧
    (∀ w, mux s.poly = .known w →
      (∀ d, s.slots.get (.known w) = some d → c = d) ∧
      (s.slots.get (.known w) = none → c = firstCalculator w s.capHw)) ∧
    (s.Inv → t.selpoly = s.poly ∧ (s.poly = 0x82F63B78#32 → selHw t.sel = s.capHw))

/-- R168: each of the five SELECT commands is its word and completes in every state: its slot holds a calculator, built if it was
invalid, and is selected; nothing else changes. In a legal state SEL and SELPOLY are then the listed values. -/
def Obligations.SelectSelectsTheNamedCalculator : Prop :=
  (∀ (w : WellKnown) (v : Word), decode v = .ok (selectInstr w) ↔ v = w.command) ∧
  ∀ (s : State) (w : WellKnown), ∃ t c, exec (selectInstr w) s = .next t ∧ Selected s t (.known w) c ∧
    (∀ d, s.slots.get (.known w) = some d → c = d) ∧
    (s.slots.get (.known w) = none → c = firstCalculator w s.capHw) ∧
    (s.Inv → t.sel = selAfter w s.capHw ∧ t.selpoly = wellKnownPoly w)

/-! ### HASH -/

/-- HASH completes (R169): where its checks pass, no store races it and the selected slot is valid, RESULT becomes the checksum of
the buffer by the slot's engine; STATUS completes with 0, and nothing else changes but the model's read log. -/
def Obligations.HashWritesTheCalculatorsChecksum : Prop :=
  ∀ (s : State) (k : SlotId) (c : Calculator), ChecksPass s → Undisturbed s → selSlot s.sel = k.num →
    s.slots.get k = some c →
    ∃ t, exec .hash s = .next t ∧
      t.result = (match c with
        | .table _ T => s16Engine T (bufferBytes s) s.seed
        | .hardware _ => hwEngine (bufferBytes s) s.seed (s.capHw && s.capWide)) ∧
      Completed .ok s.status t.status ∧ HashFrame s t ∧ t.draws = s.draws

/-- R203, R204, R205: HASH with no selection, with a wrapping range, or over an unreadable byte ends with its code and writes STATUS
only. That it reads no buffer byte on ERR_BUS either is U15 of spec/93_implementation_defined.md (log entry 22). -/
def Obligations.FailingHashWritesStatusOnly : Prop :=
  ∀ s : State,
    (selValid s.sel = false →
      ∃ st, exec .hash s = .next { s with status := st } ∧ Completed .noSel s.status st) ∧
    (selValid s.sel = true → s.len ≠ 0 → s.addr.toNat + s.len.toNat > 2 ^ 32 →
      ∃ st, exec .hash s = .next { s with status := st } ∧ Completed .range s.status st) ∧
    (selValid s.sel = true → s.addr.toNat + s.len.toNat ≤ 2 ^ 32 →
      (∃ j, j < s.len.toNat ∧ s.memAdmit (s.addr.toNat + j) = false) →
      ∃ st, exec .hash s = .next { s with status := st } ∧ Completed .bus s.status st)

/-- R206: a command reports exactly one code, the first check that fails: illegal by decode, then no selection, then range, then
bus. -/
def Obligations.FirstFailingCheckGivesTheCode : Prop :=
  ∀ (s : State) (w : Word) (rest : List BusEvent), CmdWriteNext s w rest →
    ∃ t, step s = .next t ∧
      statusErr t.status =
        (match decode w with
        | .error _ => 1#4
        | .ok .hash =>
          if selValid s.sel = false then 2#4
          else if 0 < s.len.toNat ∧ s.addr.toNat + s.len.toNat > 2 ^ 32 then 3#4
          else if (List.range s.len.toNat).any (fun j => !s.memAdmit (s.addr.toNat + j)) then 4#4
          else 0#4
        | .ok _ => 0#4)

/-- R128: an empty buffer gives the seed, on either engine and either tier; and a HASH with LEN = 0 on a valid selected slot writes
SEED to RESULT whatever ADDR is, and reads nothing. -/
def Obligations.EmptyBufferGivesTheSeed : Prop :=
  (∀ T seed, s16Engine T [] seed = seed) ∧ (∀ seed wide, hwEngine [] seed wide = seed) ∧
  (∀ (s : State) (c : Calculator), selValid s.sel = true → s.len = 0 → s.calculatorAt (selSlot s.sel) = some c →
    ∃ t, exec .hash s = .next t ∧ t.result = s.seed ∧ statusErr t.status = 0#4 ∧ t.reads = s.reads)

/-- R54: a HASH whose checks pass reads exactly ADDR, ADDR+1, …, ADDR+LEN−1, each once and in ascending order; GET, SELECT and
register accesses read nothing; and none of them writes buffer memory. That a HASH whose checks fail reads nothing is log entry 22
(for ERR_BUS from U15 of spec/93_implementation_defined.md). -/
def Obligations.CommandsReadExactlyTheFootprint : Prop :=
  (∀ (s t : State) (acc : HostAccess) (rest : List BusEvent) (r : HostReg), s.inbox = .host acc :: rest →
    acc.target s.base = .register r → (r ≠ .cmd ∨ acc.op = .read) → step s = .next t →
    t.reads = s.reads ∧ t.mem = s.mem) ∧
  ∀ (i : Instr) (s t : State), exec i s = .next t →
    t.mem = s.mem ∧
    (i = .hash → ChecksPass s → t.reads = s.reads ++ (List.range s.len.toNat).map (s.addr.toNat + ·)) ∧
    (i = .hash → ¬ ChecksPass s → t.reads = s.reads) ∧ (i ≠ .hash → t.reads = s.reads)

/-- R55: if another agent stores into the buffer while HASH executes, the command still completes with ERR = 0, and RESULT is a
free value; stores outside the buffer do not affect the command. The form of the free value, Config.freeWord of the counter draws,
which goes up by one, is the model's choice (log entry 7). -/
def Obligations.RacedHashGivesAFreeValue : Prop :=
  (∀ (s : State) (rest : List BusEvent) (a : Word) (b : Byte), CmdWriteNext s 0x00000003#32 rest → ChecksPass s →
    Overlap.store a b ∈ s.overlap → InBuffer s a.toNat →
    ∃ t, step s = .next t ∧ t.result = Config.freeWord s.draws ∧ t.draws = s.draws + 1 ∧
      Completed .ok s.status t.status ∧
      (∀ c, (∀ d e, Overlap.store d e ∈ s.overlap → d.toNat ≠ c) → t.mem.byteAt c = s.mem.byteAt c) ∧
      t.sel = s.sel ∧ t.selpoly = s.selpoly ∧ t.slots = s.slots ∧ t.poly = s.poly ∧ t.seed = s.seed ∧ t.addr = s.addr ∧
      t.len = s.len ∧ t.tblidx = s.tblidx ∧ t.capHw = s.capHw ∧ t.capWide = s.capWide) ∧
  (∀ s t t' : State, Undisturbed s → exec .hash s = .next t → exec .hash { s with overlap := [] } = .next t' →
    t' = { t with overlap := [] })

/-- R54, R55: RESULT and STATUS of a HASH do not depend on any byte outside the footprint, neither one that lies in memory nor one
stored there while HASH executes. -/
def Obligations.BytesOutsideTheBufferDoNotMatter : Prop :=
  ∀ (s s' t t' : State),
    s' = { s with mem := s'.mem, overlap := s'.overlap } →
    (∀ a, InBuffer s a → s'.mem.byteAt a = s.mem.byteAt a) → Undisturbed s → Undisturbed s' →
    exec .hash s = .next t → exec .hash s' = .next t' → t'.result = t.result ∧ t'.status = t.status ∧ t'.draws = t.draws

/-- R126, R145, R172: in a legal state a HASH that completes undisturbed writes the reference CRC, for the polynomial that SELPOLY
shows, of the buffer and the seed, whichever slot is selected, whichever engine runs and whatever the straps are. -/
def Obligations.HashIsTheReferenceCrcOfSelpoly : Prop :=
  ∀ s : State, s.Inv → ChecksPass s → Undisturbed s →
    ∃ t, exec .hash s = .next t ∧ t.result = ~~~(foldBytes s.selpoly (~~~s.seed) (bufferBytes s)) ∧
      statusErr t.status = 0#4

/-- R172: over the same buffer and seed HASH gives the same RESULT with slot 2 selected as with slot 4, and for any two selections
of one polynomial, whatever the capability bits of the two states are. -/
def Obligations.SamePolynomialSameResult : Prop :=
  ∀ s s' t t' : State, s.Inv → s'.Inv → ChecksPass s → ChecksPass s' → Undisturbed s → Undisturbed s' →
    bufferBytes s' = bufferBytes s → s'.seed = s.seed → exec .hash s = .next t → exec .hash s' = .next t' →
    ((selSlot s.sel = 2 ∧ selSlot s'.sel = 4) → t'.result = t.result) ∧ (s'.selpoly = s.selpoly → t'.result = t.result)

/-! ### Errors, completion, stickiness -/

/-- R171: what COMPLETE(code) writes, and that it writes nothing else. -/
def Obligations.CompleteWritesStatusFields : Prop :=
  ∀ (code : ErrCode) (s : State), Completed code s.status (s.complete code).status ∧
    s.complete code = { s with status := (s.complete code).status }

/-- R207: a command that ends with a nonzero code has written STATUS only, with ERRSEEN 1, BUSY 0 and DONE 1; so has an illegal
word. -/
def Obligations.ErringCommandWritesStatusOnly : Prop :=
  (∀ (i : Instr) (s t : State), exec i s = .next t → statusErr t.status ≠ 0#4 →
    t = { s with status := t.status } ∧ statusErrSeen t.status = true ∧ statusBusy t.status = false ∧
      statusDone t.status = true) ∧
  (∀ (s t : State) (w : Word) (rest : List BusEvent), CmdWriteNext s w rest → step s = .next t → statusErr t.status ≠ 0#4 →
    OnlyStatusChanged s t rest ∧ statusErrSeen t.status = true ∧ statusBusy t.status = false ∧ statusDone t.status = true)

/-- R170, R239: every command completes, from every state, with BUSY = 0, DONE = 1 and a code of R201. -/
def Obligations.EveryCommandCompletes : Prop :=
  ∀ (i : Instr) (s : State), ∃ t code, exec i s = .next t ∧ Completed code s.status t.status ∧ CommandFrame s t ∧
    (code ≠ .ok → i = .hash)

/-- R208: once set, ERRSEEN is cleared by reset only, and a command that succeeds sets ERR to 0 and keeps it. -/
def Obligations.ErrSeenIsSticky : Prop :=
  (∀ s t : State, step s = .next t → statusErrSeen s.status = true →
    statusErrSeen t.status = true ∨ ∃ e rest, s.inbox = e :: rest ∧ e.isReset = true) ∧
  (∀ (s t : State) (e : BusEvent) (rest : List BusEvent), s.inbox = e :: rest → e.isReset = true → step s = .next t →
    statusErrSeen t.status = false) ∧
  (∀ (i : Instr) (s t : State), exec i s = .next t → i ≠ .hash → statusErrSeen s.status = true →
    statusErr t.status = 0#4 ∧ statusErrSeen t.status = true) ∧
  (∀ s t : State, exec .hash s = .next t → ChecksPass s → statusErrSeen s.status = true →
    statusErr t.status = 0#4 ∧ statusErrSeen t.status = true)

/-! ### The table builder -/

/-- R100: STEP1, with its corner cases and its example. -/
def Obligations.StepOneShiftsAndReduces : Prop :=
  (∀ v p, v.getLsbD 0 = true → step1 v p = (v >>> 1) ^^^ p) ∧ (∀ v p, v.getLsbD 0 = false → step1 v p = v >>> 1) ∧
  (∀ p, step1 0 p = 0) ∧ (∀ p, step1 1 p = p) ∧ (∀ v, step1 v 0 = v >>> 1) ∧
  (∀ v p, p.getLsbD 31 = true → (step1 v p).getLsbD 31 = v.getLsbD 0) ∧
  step1 0x00000003#32 0xEDB88320#32 = 0xEDB88321#32

/-- R101: REDUCE8 is eight STEP1s, linear over XOR, with its corner cases and its example. -/
def Obligations.ReduceEightIsEightStepsAndLinear : Prop :=
  (∀ v p, reduce8 v p = step1 (step1 (step1 (step1 (step1 (step1 (step1 (step1 v p) p) p) p) p) p) p) p) ∧
  (∀ v w p, reduce8 (v ^^^ w) p = reduce8 v p ^^^ reduce8 w p) ∧ (∀ p, reduce8 0 p = 0) ∧
  (∀ p, reduce8 0x80 p = p) ∧ (∀ p, reduce8 0x100 p = 1) ∧ (∀ v, reduce8 v 0 = v >>> 8) ∧
  reduce8 0xFFFFFFFF#32 0xEDB88320#32 = 0x2DFD1072#32

/-- R102: every entry of a built table, slice by slice from the byte value, and the corner cases. -/
def Obligations.BuildFillsEveryEntry : Prop :=
  (∀ (p : Word) (i : Byte), (build p).entry 0 i = reduce8 (i.setWidth 32) p) ∧
  (∀ (p : Word) (i : Byte) (t u : Fin 16), u.val = t.val + 1 → (build p).entry u i = reduce8 ((build p).entry t i) p) ∧
  (∀ (p : Word) (t : Fin 16), (build p).entry t 0 = 0) ∧ (∀ p : Word, (build p).entry 0 0x80 = p) ∧
  (∀ (t : Fin 16) (i : Byte), (build 0).entry t i = 0) ∧ (build 0xFFFFFFFF#32).entry 0 1 = 0x02000000#32 ∧
  (build 0xEDB88320#32).entry 0 1 = 0x77073096#32 ∧ (build 0x82F63B78#32).entry 0 1 = 0xF26B8303#32

/-- R103: the slice recurrence. -/
def Obligations.SliceRecurrenceHolds : Prop :=
  ∀ (p : Word) (i : Byte) (t u : Fin 16), u.val = t.val + 1 →
    (build p).entry u i =
      ((build p).entry t i >>> 8) ^^^ (build p).entry 0 (((build p).entry t i &&& 0xFF#32).setWidth 8)

/-- R104: `T[t][i]` is running value 0 with byte i and then t zero bytes folded in. -/
def Obligations.SliceFoldsByteThenZeros : Prop :=
  ∀ (p : Word) (i : Byte) (t : Fin 16), (build p).entry t i = foldBytes p 0 (i :: List.replicate t.val 0#8)

/-- R106: the table is a function of the polynomial alone: in a legal state two table-backed slots with the same polynomial hold
identical tables. -/
def Obligations.SamePolynomialSameTable : Prop :=
  ∀ (s : State) (j k : SlotId) (p : Word) (T U : Table), s.Inv → s.slots.get j = some (.table p T) →
    s.slots.get k = some (.table p U) → T = U ∧ T = build p

/-! ### The engines -/

/-- R122, R123 against R126: on a built table one S16_BLOCK is sixteen byte steps and one S16_TAIL is one. -/
def Obligations.BlockAndTailAreByteSteps : Prop :=
  (∀ (p crc : Word) (b0 b1 b2 b3 b4 b5 b6 b7 b8 b9 b10 b11 b12 b13 b14 b15 : Byte),
    s16Block (build p) crc b0 b1 b2 b3 b4 b5 b6 b7 b8 b9 b10 b11 b12 b13 b14 b15 =
      foldBytes p crc [b0, b1, b2, b3, b4, b5, b6, b7, b8, b9, b10, b11, b12, b13, b14, b15]) ∧
  (∀ (p crc : Word) (x : Byte), s16Tail (build p) crc x = reduce8 (crc ^^^ x.setWidth 32) p)

/-- R125: the main loop takes 16 · floor(n/16) bytes and leaves n mod 16 to the tail, on any table; and with the wide tier the
8-byte loop of R143 leaves n mod 8, the 4-byte loop n mod 4. -/
def Obligations.LoopsTakeWholeWindowsOnly : Prop :=
  (∀ (T : Table) (crc : Word) (data : List Byte), (s16MainLoop T crc data).2 = data.drop (16 * (data.length / 16))) ∧
  (∀ (crc : Word) (data : List Byte), (hwLoop8 crc data).2 = data.drop (8 * (data.length / 8))) ∧
  (∀ (crc : Word) (data : List Byte), (hwLoop4 crc data).2 = data.drop (4 * (data.length / 4)))

/-- R126: the slice-by-16 engine on a built table is the bit-at-a-time CRC, for every polynomial, seed and byte string. -/
def Obligations.SliceBy16EqualsReference : Prop :=
  ∀ (p : Word) (data : List Byte) (seed : Word), s16Engine (build p) data seed = ~~~(foldBytes p (~~~seed) data)

/-- R145: the hardware engine gives the slice-by-16 engine's result for CRC-32C, on both tiers; and the native steps are the only
ones that do. -/
def Obligations.HardwareEqualsSliceBy16 : Prop :=
  (∀ (data : List Byte) (seed : Word) (wide : Bool),
    hwEngine data seed wide = s16Engine (build 0x82F63B78#32) data seed ∧
    hwEngine data seed wide = ~~~(foldBytes 0x82F63B78#32 (~~~seed) data)) ∧
  (∀ f : Word → Byte → Word, (∀ seed x, ~~~(f (~~~seed) x) = ~~~(foldBytes 0x82F63B78#32 (~~~seed) [x])) →
    ∀ crc x, f crc x = crc32cU8 crc x) ∧
  (∀ f : Word → BitVec 32 → Word,
    (∀ seed b0 b1 b2 b3, ~~~(f (~~~seed) (chunk4 b0 b1 b2 b3)) = ~~~(foldBytes 0x82F63B78#32 (~~~seed) [b0, b1, b2, b3])) →
    ∀ crc w, f crc w = crc32cU32 crc w) ∧
  (∀ f : Word → BitVec 64 → Word,
    (∀ seed b0 b1 b2 b3 b4 b5 b6 b7, ~~~(f (~~~seed) (chunk8 b0 b1 b2 b3 b4 b5 b6 b7)) =
      ~~~(foldBytes 0x82F63B78#32 (~~~seed) [b0, b1, b2, b3, b4, b5, b6, b7])) →
    ∀ crc q, f crc q = crc32cU64 crc q)

/-- R129: seed composability of the slice-by-16 engine on a built table. -/
def Obligations.SeedsCompose : Prop :=
  ∀ (p : Word) (x y : List Byte) (seed : Word),
    s16Engine (build p) (x ++ y) seed = s16Engine (build p) y (s16Engine (build p) x seed)

/-- R51 with R11's `le`: the chunks of the hardware engine are the little-endian numbers of their bytes. -/
def Obligations.ChunksAreLittleEndian : Prop :=
  (∀ b0 b1 b2 b3 : Byte, (chunk4 b0 b1 b2 b3).toNat = le [b0, b1, b2, b3]) ∧
  (∀ b0 b1 b2 b3 b4 b5 b6 b7 : Byte, (chunk8 b0 b1 b2 b3 b4 b5 b6 b7).toNat = le [b0, b1, b2, b3, b4, b5, b6, b7])

/-- R141, R142: the narrow step is 32 STEP1s of `crc ^ w`, and the wide step is that for its low half and then its high half. -/
def Obligations.NativeStepsAreBitReductions : Prop :=
  (∀ crc w : Word, crc32cU32 crc w = stepBits 32 (crc ^^^ w) 0x82F63B78#32) ∧
  (∀ (crc : Word) (q : BitVec 64), crc32cU64 crc q =
    stepBits 32 (stepBits 32 (crc ^^^ q.extractLsb' 0 32) 0x82F63B78#32 ^^^ q.extractLsb' 32 32) 0x82F63B78#32)

/-! ### The invariant -/

/-- The invariant holds right after reset, on every platform. -/
def Obligations.ResetIsLegal : Prop :=
  State.reset.Inv ∧ ∀ hw wide base admits, (State.resetOn hw wide base admits).Inv

/-- Every step keeps the invariant. -/
def Obligations.StepKeepsTheInvariant : Prop :=
  ∀ s t : State, s.Inv → step s = .next t → t.Inv

/-- R41: in a legal state a hardware-backed slot is slot 4 and the capability is present, so SEL.HW implies CAP.HW_CRC32C. -/
def Obligations.HardwareSlotNeedsCapability : Prop :=
  ∀ s : State, s.Inv →
    (∀ k c, s.slots.get k = some c → c.isHardware = true → k = .known .crc32cBest ∧ s.capHw = true) ∧
    (selHw s.sel = true → (s.readReg .cap).getLsbD 0 = true)

/-- R31: in a legal state SELPOLY is the polynomial of the selected slot, and 0 where none is selected; for a hardware-backed slot it
reads 0x82F63B78. It reads 0 after reset, and a host write is ignored. -/
def Obligations.SelpolyIsTheSelectedPolynomial : Prop :=
  State.reset.readReg .selpoly = 0 ∧
  (∀ (s : State) (v : Word) (rest : List BusEvent), s.inbox = writeEvent 0x24 v :: rest →
    step s = .next { s with inbox := rest }) ∧
  ∀ s : State, s.Inv →
    (selValid s.sel = true → ∃ c, s.calculatorAt (selSlot s.sel) = some c ∧ s.readReg .selpoly = c.poly ∧
      selHw s.sel = c.isHardware ∧ (c.isHardware = true → s.readReg .selpoly = 0x82F63B78#32)) ∧
    (selValid s.sel = false → s.readReg .selpoly = 0)

/-- R34, R23, R30, R32, R24: in a legal state reserved bits read 0, BUSY reads 0 and ERR is a code of R201. -/
def Obligations.ReservedBitsReadZero : Prop :=
  ∀ s : State, s.Inv →
    s.readReg .status &&& 0xFFFFFE0D#32 = 0 ∧ (statusErr (s.readReg .status)).toNat ≤ 4 ∧
    s.readReg .sel &&& 0xFFFFFF8C#32 = 0 ∧ s.readReg .tblidx &&& 0xFFFF8000#32 = 0 ∧
    s.readReg .cap &&& 0xFFFFFFFC#32 = 0 ∧ s.readReg .reserved = 0 ∧ s.readReg .cmd = 0

/-- R40: a valid slot keeps its contents through every step that is no reset, but for slot 5, which only a GET of an unrecognised
polynomial replaces; and no HASH writes any slot. -/
def Obligations.ValidSlotsAreImmutable : Prop :=
  (∀ (s t : State) (e : BusEvent) (rest : List BusEvent) (w : WellKnown) (c : Calculator), s.inbox = e :: rest →
    e.isReset = false → step s = .next t → s.slots.get (.known w) = some c → t.slots.get (.known w) = some c) ∧
  (∀ (s t : State) (e : BusEvent) (rest : List BusEvent), s.inbox = e :: rest →
    e.isReset = false → step s = .next t → t.slots.get .scratch ≠ s.slots.get .scratch →
    CmdWriteNext s 0x00000001#32 rest ∧ mux s.poly = .scratch) ∧
  (∀ s t : State, exec .hash s = .next t → t.slots = s.slots)

/-- R44: after any sequence of GETs and SELECTs from a legal state, the slots are determined by which slots were requested and by
the polynomial of the last unrecognised GET, not by the order of the requests. SEL and SELPOLY name the last selection, POLY is what
the host wrote there last, STATUS shows success, and nothing else changes. -/
def Obligations.SlotsDependOnTheRequestsNotTheirOrder : Prop :=
  ∀ (rs : List Request) (s t : State), s.Inv → AfterRequests rs s t →
    (∀ w, ((s.slots.get (.known w) ≠ none ∨ ∃ r ∈ rs, r.slot = .known w) →
        t.slots.get (.known w) = some (firstCalculator w s.capHw)) ∧
      (s.slots.get (.known w) = none → (∀ r ∈ rs, r.slot ≠ .known w) → t.slots.get (.known w) = none)) ∧
    (∀ p, (rs.filterMap Request.unrecognised).getLast? = some p → t.slots.get .scratch = some (.table p (build p))) ∧
    ((rs.filterMap Request.unrecognised).getLast? = none → t.slots.get .scratch = s.slots.get .scratch) ∧
    t = { s with
      poly := (rs.filterMap Request.written).getLast?.getD s.poly, slots := t.slots, sel := t.sel,
      selpoly := t.selpoly, status := t.status } ∧
    (∀ r, rs.getLast? = some r →
      t.sel = selOfSlot r.slot s.capHw ∧ t.selpoly = r.poly ∧ Completed .ok s.status t.status) ∧
    (rs = [] → t = s)

/-! ### Reset and the straps -/

/-- R230: a reset, alone or in the middle of a command, latches the straps, empties the slot store and zeroes every register, in any
state; CAP then reads the straps and TBLDATA reads 0 at every index. Which command it cuts makes no difference. -/
def Obligations.ResetEstablishesResetValues : Prop :=
  ∀ (s : State) (e : BusEvent) (rest : List BusEvent), s.inbox = e :: rest → e.isReset = true →
    ∃ t, step s = .next t ∧ t.capHw = s.strapHw ∧ t.capWide = s.strapWide ∧ (∀ k, t.slots.get k = none) ∧
      t.status = 0 ∧ t.poly = 0 ∧ t.seed = 0 ∧ t.addr = 0 ∧ t.len = 0 ∧ t.result = 0 ∧ t.sel = 0 ∧ t.selpoly = 0 ∧
      t.tblidx = 0 ∧ t.readReg .tbldata = 0 ∧ (∀ idx, { t with tblidx := idx }.readReg .tbldata = 0) ∧
      t.readReg .cap =
        (if s.strapHw = true ∧ s.strapWide = true then 3#32 else if s.strapHw = true then 1#32 else 0#32) ∧
      (∀ w, e = .cmdCut w → ∀ v, step { s with inbox := .cmdCut v :: rest } = .next t)

/-- A command cut by reset leaves no trace of itself: what it was does not matter, and the block is as after reset. What other agents
did while it ran stands (the model's choice, log entry 13): their stores landed, and the host's reads were answered as at the start of
any command. With nothing overlapping, the host's read data and memory are as before. -/
def Obligations.AbandonedCommandLeavesNoTrace : Prop :=
  ∀ (s t : State) (w : Word) (rest : List BusEvent), s.inbox = .cmdCut w :: rest → step s = .next t →
    (∀ v, step { s with inbox := .cmdCut v :: rest } = .next t) ∧
    t = { s.resetAction with
      inbox := rest, mem := s.settle.mem, overlap := [], rdata := s.beginCommand.rdata, reads := [] } ∧
    (s.overlap = [] → t.rdata = s.rdata ∧ t.mem = s.mem)

/-- R45, R231: capHw and capWide change at a reset only, whatever the straps do. -/
def Obligations.StrapsMatterAtResetOnly : Prop :=
  (∀ (s t : State) (e : BusEvent) (rest : List BusEvent), s.inbox = e :: rest → e.isReset = false → step s = .next t →
    t.capHw = s.capHw ∧ t.capWide = s.capWide) ∧
  (∀ (s t : State) (e : BusEvent) (rest : List BusEvent), s.inbox = e :: rest → e.isReset = true → step s = .next t →
    t.capHw = s.strapHw ∧ t.capWide = s.strapWide) ∧
  (∀ (s : State) (hw wide : Bool) (rest : List BusEvent), s.inbox = .straps hw wide :: rest →
    step s = .next { s with inbox := rest, strapHw := hw, strapWide := wide })

/-! ### Host registers -/

/-- R25, R26, R27, R28: POLY, SEED, ADDR and LEN are 0 after reset, store what the host writes, read it back, and no command writes
them. -/
def Obligations.OperandRegistersHoldTheHostsWrite : Prop :=
  ∀ r ∈ [HostReg.poly, HostReg.seed, HostReg.addr, HostReg.len],
    (∀ (s : State) (v : Word) (rest : List BusEvent), s.inbox = writeEvent r.offset v :: rest →
      ∃ t, step s = .next t ∧ t.readReg r = v ∧
        (∀ q, q ≠ r → t.readReg q = s.readReg q) ∧ t.slots = s.slots ∧ t.mem = s.mem ∧ t.inbox = rest) ∧
    (∀ (i : Instr) (s t : State), exec i s = .next t → t.readReg r = s.readReg r) ∧ State.reset.readReg r = 0

/-- R32: a host write stores w[14:0] in TBLIDX, whose fields are BYTE, SLICE and SRC; it reads 0 after reset. -/
def Obligations.TblidxStoresFifteenBits : Prop :=
  (∀ (s : State) (v : Word) (rest : List BusEvent), s.inbox = writeEvent 0x28 v :: rest →
    ∃ t, step s = .next t ∧ t.readReg .tblidx = (v.extractLsb' 0 15).setWidth 32 ∧
      tblByte t.tblidx = v.extractLsb' 0 8 ∧ tblSlice t.tblidx = v.extractLsb' 8 4 ∧ tblSrc t.tblidx = v.extractLsb' 12 3 ∧
      t = { s with inbox := rest, tblidx := t.tblidx }) ∧
  State.reset.readReg .tblidx = 0

/-- R33: TBLDATA reads the named entry of a valid table-backed slot, and 0 for an invalid slot, a hardware-backed one, or ids 6 and
7; the read changes nothing but the host's read data, and a write is ignored. -/
def Obligations.TbldataReadsTheNamedEntry : Prop :=
  (∀ (s : State) (k : SlotId) (p : Word) (T : Table), tblSrc s.tblidx = k.num → s.slots.get k = some (.table p T) →
    s.readReg .tbldata = T.entry (tblSlice s.tblidx).toFin (tblByte s.tblidx)) ∧
  (∀ (s : State) (k : SlotId), tblSrc s.tblidx = k.num →
    (s.slots.get k = none ∨ ∃ p, s.slots.get k = some (.hardware p)) → s.readReg .tbldata = 0) ∧
  (∀ s : State, 6 ≤ (tblSrc s.tblidx).toNat → s.readReg .tbldata = 0) ∧
  (∀ (s : State) (rest : List BusEvent), s.inbox = readEvent 0x2C :: rest →
    step s = .next { s with inbox := rest, rdata := s.readReg .tbldata }) ∧
  (∀ (s : State) (v : Word) (rest : List BusEvent), s.inbox = writeEvent 0x2C v :: rest →
    step s = .next { s with inbox := rest })

/-- R24: CAP reads HW_CRC32C and HW_WIDE64 from the latched bits and 0 elsewhere; it is constant from reset to the next reset, where
it takes the straps' value; and a host write is ignored. -/
def Obligations.CapShowsTheLatchedCapability : Prop :=
  (∀ s : State, (s.readReg .cap).getLsbD 0 = s.capHw ∧ (s.readReg .cap).getLsbD 1 = (s.capHw && s.capWide) ∧
    (s.readReg .cap).extractLsb' 2 30 = 0) ∧
  (∀ (s t : State) (e : BusEvent) (rest : List BusEvent), s.inbox = e :: rest → step s = .next t →
    (e.isReset = false → t.readReg .cap = s.readReg .cap) ∧
    (e.isReset = true → t.readReg .cap =
      ((s.strapHw && s.strapWide).toNat * 2 + s.strapHw.toNat : Nat))) ∧
  (∀ (s : State) (v : Word) (rest : List BusEvent), s.inbox = writeEvent 0x08 v :: rest →
    step s = .next { s with inbox := rest })

/-- R34, R36: a host write to STATUS, CAP, RESULT, SEL, SELPOLY, TBLDATA or a reserved offset changes nothing. -/
def Obligations.ReadOnlyRegistersIgnoreWrites : Prop :=
  ∀ (s : State) (v : Word) (rest : List BusEvent) (off : Nat),
    off ∈ [0x04, 0x08, 0x1C, 0x20, 0x24, 0x2C, 0x30, 0x34, 0x38, 0x3C] →
    s.inbox = writeEvent off v :: rest → step s = .next { s with inbox := rest }

/-- R21, R35: a host read at each offset of the window returns the register R21 lists there, and changes nothing but the host's read
data. -/
def Obligations.HostReadReturnsTheRegister : Prop :=
  ∀ (s : State) (rest : List BusEvent) (off : Nat) (v : Word),
    (off, v) ∈ [(0x00, 0#32), (0x04, s.status), (0x08, capWord s.capHw s.capWide), (0x0C, s.poly), (0x10, s.seed),
      (0x14, s.addr), (0x18, s.len), (0x1C, s.result), (0x20, s.sel), (0x24, s.selpoly), (0x28, s.tblidx),
      (0x2C, s.tblData), (0x30, 0#32), (0x34, 0#32), (0x38, 0#32), (0x3C, 0#32)] →
    s.inbox = readEvent off :: rest → step s = .next { s with inbox := rest, rdata := v }

/-- R29: RESULT changes by a HASH that ends with ERR = 0 or by a reset, and by nothing else. -/
def Obligations.ResultIsWrittenBySuccessfulHashOnly : Prop :=
  ∀ (s t : State) (e : BusEvent) (rest : List BusEvent), s.inbox = e :: rest → step s = .next t → t.result ≠ s.result →
    e.isReset = true ∨ (CmdWriteNext s 0x00000003#32 rest ∧ statusErr t.status = 0#4)

/-- R236: a host access that finds BUSY = 1 while a command executes reads RESULT, SEL and SELPOLY as before the command, STATUS with
BUSY = 1, and 0 from TBLDATA; a write of any register has no effect. That the model shows such accesses is its choice (log entry 10). -/
def Obligations.AccessWhileBusyIsAnsweredAsBefore : Prop :=
  ∀ (s t : State) (w : Word) (rest : List BusEvent) (o : Nat) (op : HostOp) (r : HostReg),
    CmdWriteNext s w rest → HostReg.ofOffset o = some r →
    s.overlap = [.access { addr := .offset o, width := 4, op := op }] → step s = .next t →
    (op = .read → (r = .result → t.rdata = s.result) ∧ (r = .sel → t.rdata = s.sel) ∧
      (r = .selpoly → t.rdata = s.selpoly) ∧ (r = .tbldata → t.rdata = 0) ∧
      (r = .status → statusBusy t.rdata = true)) ∧
    (∃ u, step { s with overlap := [] } = .next u ∧ t = { u with rdata := t.rdata } ∧ (op ≠ .read → t = u))

/-- R237: a write of POLY, SEED, ADDR, LEN or TBLIDX takes effect before the next host access, whatever that is. A GET right after a
write of POLY selects the new polynomial; a HASH right after a write of SEED, ADDR or LEN computes with the new value (R169, R126);
a read of TBLDATA right after a write of TBLIDX returns the entry the new value names (R33). -/
def Obligations.RegisterWriteIsSeenByTheNextCommand : Prop :=
  (∀ (s m : State) (off : Nat) (v : Word) (e : BusEvent) (rest : List BusEvent),
    (off, m) ∈ [(0x0C, { s with poly := v }), (0x10, { s with seed := v }), (0x14, { s with addr := v }),
      (0x18, { s with len := v }), (0x28, { s with tblidx := (v.extractLsb' 0 15).setWidth 32 })] →
    s.inbox = writeEvent off v :: e :: rest → step s = .next { m with inbox := e :: rest }) ∧
  (∀ (s : State) (p : Word) (rest : List BusEvent), s.Inv →
    s.inbox = writeEvent 0x0C p :: writeEvent 0x00 0x00000001#32 :: rest →
    ∃ t u, step s = .next t ∧ step t = .next u ∧ u.selpoly = p ∧ selSlot u.sel = (mux p).num) ∧
  (∀ (s m : State) (off : Nat) (v : Word) (rest : List BusEvent),
    (off, m) ∈ [(0x10, { s with seed := v }), (0x14, { s with addr := v }), (0x18, { s with len := v })] →
    s.inbox = writeEvent off v :: writeEvent 0x00 0x00000003#32 :: rest → s.Inv → ChecksPass m → Undisturbed m →
    ∃ t u, step s = .next t ∧ step t = .next u ∧
      u.result = ~~~(foldBytes m.selpoly (~~~m.seed) (bufferBytes m)) ∧ statusErr u.status = 0#4) ∧
  (∀ (s : State) (v : Word) (rest : List BusEvent), s.inbox = writeEvent 0x28 v :: readEvent 0x2C :: rest →
    ∃ t u, step s = .next t ∧ step t = .next u ∧
      (∀ k p T, v.extractLsb' 12 3 = k.num → s.slots.get k = some (.table p T) →
        u.rdata = T.entry (v.extractLsb' 8 4).toFin (v.extractLsb' 0 8)) ∧
      ((∀ k p T, v.extractLsb' 12 3 = k.num → s.slots.get k ≠ some (.table p T)) → u.rdata = 0))

/-- R78, R79: every line of a host program is the bus transactions listed there, at the offsets of R21; the accessor lines are the
SELECT command words. What the transactions before a line's last one leave: `get p` leaves POLY at p with the CMD write of GET to
come; `hash a, n, x` leaves ADDR at a, LEN at n and SEED at x with the CMD write of HASH to come; `hash_next a, n` the same with SEED
at the last RESULT. `tbl k, t, i` names slot k, slice t and entry i and reads that entry. That `hash_next` writes the value it has
read by HostOp.writeBack is the model's choice (log entry 21). -/
def Obligations.PseudoInstructionsDoWhatTheyStandFor : Prop :=
  (∀ r : HostReg, HostReg.ofOffset r.offset = some r) ∧
  (∀ (r : HostReg) (v : Word), (HostLine.wr r v).expand = [writeEvent r.offset v]) ∧
  (∀ r : HostReg, (HostLine.rd r).expand = [readEvent r.offset]) ∧
  (∀ w : Word, (HostLine.cmd w).expand = [writeEvent 0x00 w]) ∧ HostLine.poll.expand = [readEvent 0x04] ∧
  (∀ p : Word, (HostLine.get p).expand = [writeEvent 0x0C p, writeEvent 0x00 0x00000001#32]) ∧
  (∀ (w : WellKnown) (v : Word),
    (w, v) ∈ [(WellKnown.crc32Normal, 0x00000002#32), (.crc32Zip, 0x00000012#32), (.crc32c, 0x00000022#32),
      (.crc32cNormal, 0x00000032#32), (.crc32cBest, 0x00000042#32)] →
    (HostLine.select w).expand = [writeEvent 0x00 v] ∧ decode v = .ok (selectInstr w)) ∧
  (∀ a n x : Word, (HostLine.hash a n x).expand =
    [writeEvent 0x14 a, writeEvent 0x18 n, writeEvent 0x10 x, writeEvent 0x00 0x00000003#32]) ∧
  (∀ a n : Word, (HostLine.hashNext a n).expand =
    [readEvent 0x1C, .host { addr := .offset 0x10, width := 4, op := .writeBack }, writeEvent 0x14 a, writeEvent 0x18 n,
      writeEvent 0x00 0x00000003#32]) ∧
  (∀ (k : BitVec 3) (t : BitVec 4) (i : Byte),
    (HostLine.tbl k t i).expand = [writeEvent 0x28 (tblIndex k t i), readEvent 0x2C] ∧
      tblSrc (tblIndex k t i) = k ∧ tblSlice (tblIndex k t i) = t ∧ tblByte (tblIndex k t i) = i) ∧
  (∀ (s : State) (p : Word) (rest : List BusEvent), s.inbox = (HostLine.get p).expand ++ rest →
    Sys2Proof.core.run 1 s = .next { s with inbox := writeEvent 0x00 0x00000001#32 :: rest, poly := p }) ∧
  (∀ (s : State) (a n x : Word) (rest : List BusEvent), s.inbox = (HostLine.hash a n x).expand ++ rest →
    Sys2Proof.core.run 3 s = .next { s with
      inbox := writeEvent 0x00 0x00000003#32 :: rest, addr := a, len := n, seed := x }) ∧
  (∀ (s : State) (a n : Word) (rest : List BusEvent), s.inbox = (HostLine.hashNext a n).expand ++ rest →
    Sys2Proof.core.run 4 s = .next { s with
      inbox := writeEvent 0x00 0x00000003#32 :: rest, rdata := s.result, seed := s.result, addr := a, len := n }) ∧
  (∀ (s : State) (k : BitVec 3) (t : BitVec 4) (i : Byte) (rest : List BusEvent),
    s.inbox = (HostLine.tbl k t i).expand ++ rest →
    ∃ u, Sys2Proof.core.run 2 s = .next u ∧ u = { s with inbox := rest, tblidx := tblIndex k t i, rdata := u.rdata } ∧
      (∀ j p T, k = SlotId.num j → s.slots.get j = some (.table p T) → u.rdata = T.entry t.toFin i) ∧
      ((∀ j p T, k = SlotId.num j → s.slots.get j ≠ some (.table p T)) → u.rdata = 0))
end

