-- ==== Sys2Proof/Laws/State.lean ====
section
/-! SUPPORT. One lemma per field per named update of State, true by rfl, so that no later proof unfolds a record update. -/
namespace Sys2Proof.Machine
variable (s : State)

/-! ### COMPLETE -/

@[simp] theorem complete_status (code : ErrCode) : (s.complete code).status = statusComplete code s.status := rfl
@[simp] theorem complete_poly (code : ErrCode) : (s.complete code).poly = s.poly := rfl
@[simp] theorem complete_seed (code : ErrCode) : (s.complete code).seed = s.seed := rfl
@[simp] theorem complete_addr (code : ErrCode) : (s.complete code).addr = s.addr := rfl
@[simp] theorem complete_len (code : ErrCode) : (s.complete code).len = s.len := rfl
@[simp] theorem complete_result (code : ErrCode) : (s.complete code).result = s.result := rfl
@[simp] theorem complete_sel (code : ErrCode) : (s.complete code).sel = s.sel := rfl
@[simp] theorem complete_selpoly (code : ErrCode) : (s.complete code).selpoly = s.selpoly := rfl
@[simp] theorem complete_tblidx (code : ErrCode) : (s.complete code).tblidx = s.tblidx := rfl
@[simp] theorem complete_slots (code : ErrCode) : (s.complete code).slots = s.slots := rfl
@[simp] theorem complete_capHw (code : ErrCode) : (s.complete code).capHw = s.capHw := rfl
@[simp] theorem complete_capWide (code : ErrCode) : (s.complete code).capWide = s.capWide := rfl
@[simp] theorem complete_strapHw (code : ErrCode) : (s.complete code).strapHw = s.strapHw := rfl
@[simp] theorem complete_strapWide (code : ErrCode) : (s.complete code).strapWide = s.strapWide := rfl
@[simp] theorem complete_base (code : ErrCode) : (s.complete code).base = s.base := rfl
@[simp] theorem complete_admits (code : ErrCode) : (s.complete code).admits = s.admits := rfl
@[simp] theorem complete_mem (code : ErrCode) : (s.complete code).mem = s.mem := rfl
@[simp] theorem complete_inbox (code : ErrCode) : (s.complete code).inbox = s.inbox := rfl
@[simp] theorem complete_overlap (code : ErrCode) : (s.complete code).overlap = s.overlap := rfl
@[simp] theorem complete_rdata (code : ErrCode) : (s.complete code).rdata = s.rdata := rfl
@[simp] theorem complete_reads (code : ErrCode) : (s.complete code).reads = s.reads := rfl
@[simp] theorem complete_draws (code : ErrCode) : (s.complete code).draws = s.draws := rfl

/-! ### SELECT_SLOT -/

@[simp] theorem selectSlot_status (k : SlotId) (c : Calculator) : (s.selectSlot k c).status = s.status := rfl
@[simp] theorem selectSlot_poly (k : SlotId) (c : Calculator) : (s.selectSlot k c).poly = s.poly := rfl
@[simp] theorem selectSlot_seed (k : SlotId) (c : Calculator) : (s.selectSlot k c).seed = s.seed := rfl
@[simp] theorem selectSlot_addr (k : SlotId) (c : Calculator) : (s.selectSlot k c).addr = s.addr := rfl
@[simp] theorem selectSlot_len (k : SlotId) (c : Calculator) : (s.selectSlot k c).len = s.len := rfl
@[simp] theorem selectSlot_result (k : SlotId) (c : Calculator) : (s.selectSlot k c).result = s.result := rfl
@[simp] theorem selectSlot_sel (k : SlotId) (c : Calculator) : (s.selectSlot k c).sel = selWord k.num c.isHardware := rfl
@[simp] theorem selectSlot_selpoly (k : SlotId) (c : Calculator) : (s.selectSlot k c).selpoly = c.poly := rfl
@[simp] theorem selectSlot_tblidx (k : SlotId) (c : Calculator) : (s.selectSlot k c).tblidx = s.tblidx := rfl
@[simp] theorem selectSlot_slots (k : SlotId) (c : Calculator) : (s.selectSlot k c).slots = s.slots := rfl
@[simp] theorem selectSlot_capHw (k : SlotId) (c : Calculator) : (s.selectSlot k c).capHw = s.capHw := rfl
@[simp] theorem selectSlot_capWide (k : SlotId) (c : Calculator) : (s.selectSlot k c).capWide = s.capWide := rfl
@[simp] theorem selectSlot_strapHw (k : SlotId) (c : Calculator) : (s.selectSlot k c).strapHw = s.strapHw := rfl
@[simp] theorem selectSlot_strapWide (k : SlotId) (c : Calculator) : (s.selectSlot k c).strapWide = s.strapWide := rfl
@[simp] theorem selectSlot_base (k : SlotId) (c : Calculator) : (s.selectSlot k c).base = s.base := rfl
@[simp] theorem selectSlot_admits (k : SlotId) (c : Calculator) : (s.selectSlot k c).admits = s.admits := rfl
@[simp] theorem selectSlot_mem (k : SlotId) (c : Calculator) : (s.selectSlot k c).mem = s.mem := rfl
@[simp] theorem selectSlot_inbox (k : SlotId) (c : Calculator) : (s.selectSlot k c).inbox = s.inbox := rfl
@[simp] theorem selectSlot_overlap (k : SlotId) (c : Calculator) : (s.selectSlot k c).overlap = s.overlap := rfl
@[simp] theorem selectSlot_rdata (k : SlotId) (c : Calculator) : (s.selectSlot k c).rdata = s.rdata := rfl
@[simp] theorem selectSlot_reads (k : SlotId) (c : Calculator) : (s.selectSlot k c).reads = s.reads := rfl
@[simp] theorem selectSlot_draws (k : SlotId) (c : Calculator) : (s.selectSlot k c).draws = s.draws := rfl

/-! ### slot[k] <- c -/

@[simp] theorem setSlot_status (k : SlotId) (c : Calculator) : (s.setSlot k c).status = s.status := rfl
@[simp] theorem setSlot_poly (k : SlotId) (c : Calculator) : (s.setSlot k c).poly = s.poly := rfl
@[simp] theorem setSlot_seed (k : SlotId) (c : Calculator) : (s.setSlot k c).seed = s.seed := rfl
@[simp] theorem setSlot_addr (k : SlotId) (c : Calculator) : (s.setSlot k c).addr = s.addr := rfl
@[simp] theorem setSlot_len (k : SlotId) (c : Calculator) : (s.setSlot k c).len = s.len := rfl
@[simp] theorem setSlot_result (k : SlotId) (c : Calculator) : (s.setSlot k c).result = s.result := rfl
@[simp] theorem setSlot_sel (k : SlotId) (c : Calculator) : (s.setSlot k c).sel = s.sel := rfl
@[simp] theorem setSlot_selpoly (k : SlotId) (c : Calculator) : (s.setSlot k c).selpoly = s.selpoly := rfl
@[simp] theorem setSlot_tblidx (k : SlotId) (c : Calculator) : (s.setSlot k c).tblidx = s.tblidx := rfl
@[simp] theorem setSlot_slots (k : SlotId) (c : Calculator) : (s.setSlot k c).slots = s.slots.set k c := rfl
@[simp] theorem setSlot_capHw (k : SlotId) (c : Calculator) : (s.setSlot k c).capHw = s.capHw := rfl
@[simp] theorem setSlot_capWide (k : SlotId) (c : Calculator) : (s.setSlot k c).capWide = s.capWide := rfl
@[simp] theorem setSlot_strapHw (k : SlotId) (c : Calculator) : (s.setSlot k c).strapHw = s.strapHw := rfl
@[simp] theorem setSlot_strapWide (k : SlotId) (c : Calculator) : (s.setSlot k c).strapWide = s.strapWide := rfl
@[simp] theorem setSlot_base (k : SlotId) (c : Calculator) : (s.setSlot k c).base = s.base := rfl
@[simp] theorem setSlot_admits (k : SlotId) (c : Calculator) : (s.setSlot k c).admits = s.admits := rfl
@[simp] theorem setSlot_mem (k : SlotId) (c : Calculator) : (s.setSlot k c).mem = s.mem := rfl
@[simp] theorem setSlot_inbox (k : SlotId) (c : Calculator) : (s.setSlot k c).inbox = s.inbox := rfl
@[simp] theorem setSlot_overlap (k : SlotId) (c : Calculator) : (s.setSlot k c).overlap = s.overlap := rfl
@[simp] theorem setSlot_rdata (k : SlotId) (c : Calculator) : (s.setSlot k c).rdata = s.rdata := rfl
@[simp] theorem setSlot_reads (k : SlotId) (c : Calculator) : (s.setSlot k c).reads = s.reads := rfl
@[simp] theorem setSlot_draws (k : SlotId) (c : Calculator) : (s.setSlot k c).draws = s.draws := rfl

/-! ### a free value -/

@[simp] theorem draw_status : (s.draw.1).status = s.status := rfl
@[simp] theorem draw_poly : (s.draw.1).poly = s.poly := rfl
@[simp] theorem draw_seed : (s.draw.1).seed = s.seed := rfl
@[simp] theorem draw_addr : (s.draw.1).addr = s.addr := rfl
@[simp] theorem draw_len : (s.draw.1).len = s.len := rfl
@[simp] theorem draw_result : (s.draw.1).result = s.result := rfl
@[simp] theorem draw_sel : (s.draw.1).sel = s.sel := rfl
@[simp] theorem draw_selpoly : (s.draw.1).selpoly = s.selpoly := rfl
@[simp] theorem draw_tblidx : (s.draw.1).tblidx = s.tblidx := rfl
@[simp] theorem draw_slots : (s.draw.1).slots = s.slots := rfl
@[simp] theorem draw_capHw : (s.draw.1).capHw = s.capHw := rfl
@[simp] theorem draw_capWide : (s.draw.1).capWide = s.capWide := rfl
@[simp] theorem draw_strapHw : (s.draw.1).strapHw = s.strapHw := rfl
@[simp] theorem draw_strapWide : (s.draw.1).strapWide = s.strapWide := rfl
@[simp] theorem draw_base : (s.draw.1).base = s.base := rfl
@[simp] theorem draw_admits : (s.draw.1).admits = s.admits := rfl
@[simp] theorem draw_mem : (s.draw.1).mem = s.mem := rfl
@[simp] theorem draw_inbox : (s.draw.1).inbox = s.inbox := rfl
@[simp] theorem draw_overlap : (s.draw.1).overlap = s.overlap := rfl
@[simp] theorem draw_rdata : (s.draw.1).rdata = s.rdata := rfl
@[simp] theorem draw_reads : (s.draw.1).reads = s.reads := rfl
@[simp] theorem draw_draws : (s.draw.1).draws = s.draws + 1 := rfl

/-! ### MemRead -/

@[simp] theorem memRead_status (a n : Nat) : ((s.memRead a n).1).status = s.status := rfl
@[simp] theorem memRead_poly (a n : Nat) : ((s.memRead a n).1).poly = s.poly := rfl
@[simp] theorem memRead_seed (a n : Nat) : ((s.memRead a n).1).seed = s.seed := rfl
@[simp] theorem memRead_addr (a n : Nat) : ((s.memRead a n).1).addr = s.addr := rfl
@[simp] theorem memRead_len (a n : Nat) : ((s.memRead a n).1).len = s.len := rfl
@[simp] theorem memRead_result (a n : Nat) : ((s.memRead a n).1).result = s.result := rfl
@[simp] theorem memRead_sel (a n : Nat) : ((s.memRead a n).1).sel = s.sel := rfl
@[simp] theorem memRead_selpoly (a n : Nat) : ((s.memRead a n).1).selpoly = s.selpoly := rfl
@[simp] theorem memRead_tblidx (a n : Nat) : ((s.memRead a n).1).tblidx = s.tblidx := rfl
@[simp] theorem memRead_slots (a n : Nat) : ((s.memRead a n).1).slots = s.slots := rfl
@[simp] theorem memRead_capHw (a n : Nat) : ((s.memRead a n).1).capHw = s.capHw := rfl
@[simp] theorem memRead_capWide (a n : Nat) : ((s.memRead a n).1).capWide = s.capWide := rfl
@[simp] theorem memRead_strapHw (a n : Nat) : ((s.memRead a n).1).strapHw = s.strapHw := rfl
@[simp] theorem memRead_strapWide (a n : Nat) : ((s.memRead a n).1).strapWide = s.strapWide := rfl
@[simp] theorem memRead_base (a n : Nat) : ((s.memRead a n).1).base = s.base := rfl
@[simp] theorem memRead_admits (a n : Nat) : ((s.memRead a n).1).admits = s.admits := rfl
@[simp] theorem memRead_mem (a n : Nat) : ((s.memRead a n).1).mem = s.mem := rfl
@[simp] theorem memRead_inbox (a n : Nat) : ((s.memRead a n).1).inbox = s.inbox := rfl
@[simp] theorem memRead_overlap (a n : Nat) : ((s.memRead a n).1).overlap = s.overlap := rfl
@[simp] theorem memRead_rdata (a n : Nat) : ((s.memRead a n).1).rdata = s.rdata := rfl
@[simp] theorem memRead_reads (a n : Nat) : ((s.memRead a n).1).reads = s.reads ++ footprint a n := rfl
@[simp] theorem memRead_draws (a n : Nat) : ((s.memRead a n).1).draws = s.draws := rfl

/-! ### the overlapped stores land -/

@[simp] theorem settle_status : (s.settle).status = s.status := rfl
@[simp] theorem settle_poly : (s.settle).poly = s.poly := rfl
@[simp] theorem settle_seed : (s.settle).seed = s.seed := rfl
@[simp] theorem settle_addr : (s.settle).addr = s.addr := rfl
@[simp] theorem settle_len : (s.settle).len = s.len := rfl
@[simp] theorem settle_result : (s.settle).result = s.result := rfl
@[simp] theorem settle_sel : (s.settle).sel = s.sel := rfl
@[simp] theorem settle_selpoly : (s.settle).selpoly = s.selpoly := rfl
@[simp] theorem settle_tblidx : (s.settle).tblidx = s.tblidx := rfl
@[simp] theorem settle_slots : (s.settle).slots = s.slots := rfl
@[simp] theorem settle_capHw : (s.settle).capHw = s.capHw := rfl
@[simp] theorem settle_capWide : (s.settle).capWide = s.capWide := rfl
@[simp] theorem settle_strapHw : (s.settle).strapHw = s.strapHw := rfl
@[simp] theorem settle_strapWide : (s.settle).strapWide = s.strapWide := rfl
@[simp] theorem settle_base : (s.settle).base = s.base := rfl
@[simp] theorem settle_admits : (s.settle).admits = s.admits := rfl
@[simp] theorem settle_mem : (s.settle).mem = s.overlap.foldl Overlap.land s.mem := rfl
@[simp] theorem settle_inbox : (s.settle).inbox = s.inbox := rfl
@[simp] theorem settle_overlap : (s.settle).overlap = [] := rfl
@[simp] theorem settle_rdata : (s.settle).rdata = s.rdata := rfl
@[simp] theorem settle_reads : (s.settle).reads = s.reads := rfl
@[simp] theorem settle_draws : (s.settle).draws = s.draws := rfl

/-! ### RESET -/

@[simp] theorem resetAction_status : (s.resetAction).status = 0 := rfl
@[simp] theorem resetAction_poly : (s.resetAction).poly = 0 := rfl
@[simp] theorem resetAction_seed : (s.resetAction).seed = 0 := rfl
@[simp] theorem resetAction_addr : (s.resetAction).addr = 0 := rfl
@[simp] theorem resetAction_len : (s.resetAction).len = 0 := rfl
@[simp] theorem resetAction_result : (s.resetAction).result = 0 := rfl
@[simp] theorem resetAction_sel : (s.resetAction).sel = 0 := rfl
@[simp] theorem resetAction_selpoly : (s.resetAction).selpoly = 0 := rfl
@[simp] theorem resetAction_tblidx : (s.resetAction).tblidx = 0 := rfl
@[simp] theorem resetAction_slots : (s.resetAction).slots = SlotStore.empty := rfl
@[simp] theorem resetAction_capHw : (s.resetAction).capHw = s.strapHw := rfl
@[simp] theorem resetAction_capWide : (s.resetAction).capWide = s.strapWide := rfl
@[simp] theorem resetAction_strapHw : (s.resetAction).strapHw = s.strapHw := rfl
@[simp] theorem resetAction_strapWide : (s.resetAction).strapWide = s.strapWide := rfl
@[simp] theorem resetAction_base : (s.resetAction).base = s.base := rfl
@[simp] theorem resetAction_admits : (s.resetAction).admits = s.admits := rfl
@[simp] theorem resetAction_mem : (s.resetAction).mem = s.mem := rfl
@[simp] theorem resetAction_inbox : (s.resetAction).inbox = s.inbox := rfl
@[simp] theorem resetAction_overlap : (s.resetAction).overlap = s.overlap := rfl
@[simp] theorem resetAction_rdata : (s.resetAction).rdata = s.rdata := rfl
@[simp] theorem resetAction_reads : (s.resetAction).reads = s.reads := rfl
@[simp] theorem resetAction_draws : (s.resetAction).draws = s.draws := rfl

@[simp] theorem draw_value : s.draw.2 = Config.freeWord s.draws := rfl
@[simp] theorem memRead_data (a n : Nat) : (s.memRead a n).2 = (footprint a n).map s.mem.byteAt := rfl

end Sys2Proof.Machine
end

