-- ==== Sys2Proof/Laws/Slots.lean ====
section
/-! SUPPORT. The slot store, ENSURE_BUILT and the calculators: one lemma for each operation. -/
namespace Sys2Proof.Machine

@[simp] theorem SlotStore.get_set_same (t : SlotStore) (k : SlotId) (c : Calculator) : (t.set k c).get k = some c := by
  cases k with
  | known w => cases w <;> rfl
  | scratch => rfl

theorem SlotStore.get_set_other (t : SlotStore) {j k : SlotId} (c : Calculator) (h : j ≠ k) :
    (t.set k c).get j = t.get j := by
  rcases j with (_ | _ | _ | _ | _) | _ <;> rcases k with (_ | _ | _ | _ | _) | _ <;> first | rfl | exact absurd rfl h

@[simp] theorem SlotStore.get_empty (k : SlotId) : SlotStore.empty.get k = none := by
  rcases k with (_ | _ | _ | _ | _) | _ <;> rfl

/-- Two slot stores that hold the same in every slot are the same. -/
theorem SlotStore.ext_get {t u : SlotStore} (h : ∀ k, t.get k = u.get k) : t = u := by
  have h0 := h (.known .crc32Normal)
  have h1 := h (.known .crc32Zip)
  have h2 := h (.known .crc32c)
  have h3 := h (.known .crc32cNormal)
  have h4 := h (.known .crc32cBest)
  have h5 := h .scratch
  cases t
  cases u
  simp only [SlotStore.get] at h0 h1 h2 h3 h4 h5
  subst h0 h1 h2 h3 h4 h5
  rfl

@[simp] theorem SlotId.ofNum_num (k : SlotId) : SlotId.ofNum k.num = some k := by
  rcases k with (_ | _ | _ | _ | _) | _ <;> rfl

@[simp] theorem SlotId.num_inj (j k : SlotId) : j.num = k.num ↔ j = k := by
  refine ⟨fun h => ?_, fun h => h ▸ rfl⟩
  have := SlotId.ofNum_num j
  rw [h, SlotId.ofNum_num] at this
  exact (Option.some.inj this).symm

@[simp] theorem calculatorAt_num (s : State) (k : SlotId) : s.calculatorAt k.num = s.slots.get k := by
  simp [State.calculatorAt]

/-- Everything ENSURE_BUILT can do: it touches the slots only, and afterwards slot `w` holds `builtCalculator`. -/
theorem ensureBuilt_eq (s : State) (w : WellKnown) : s.ensureBuilt w = s.setSlot (.known w) (s.builtCalculator w) := by
  unfold State.ensureBuilt State.builtCalculator
  split
  · rename_i c hc
    unfold State.setSlot
    have : s.slots.set (.known w) c = s.slots := by
      refine SlotStore.ext_get fun k => ?_
      by_cases hk : k = .known w
      · subst hk
        simp [hc]
      · exact SlotStore.get_set_other _ _ hk
    rw [this]
  · rfl

theorem builtCalculator_of_some {s : State} {w : WellKnown} {c : Calculator} (h : s.slots.get (.known w) = some c) :
    s.builtCalculator w = c := by
  simp [State.builtCalculator, h]

theorem builtCalculator_of_none {s : State} {w : WellKnown} (h : s.slots.get (.known w) = none) :
    s.builtCalculator w = w.construct s.capHw := by
  simp [State.builtCalculator, h]

/-- What selecting a well-known slot does to the state, as one record update (R168). -/
theorem selectKnown_eq (s : State) (w : WellKnown) :
    s.selectKnown w =
      { s with
        slots := s.slots.set (.known w) (s.builtCalculator w)
        sel := selWord w.num (s.builtCalculator w).isHardware
        selpoly := (s.builtCalculator w).poly
        status := statusComplete .ok s.status } := by
  rw [State.selectKnown, ensureBuilt_eq]
  rfl

/-- What selecting the scratch slot does to the state, as one record update (R165, R166). -/
theorem selectScratch_eq (s : State) (p : Word) :
    s.selectScratch p =
      { s with
        slots := s.slots.set .scratch (tableCalculator p)
        sel := selWord 5 false
        selpoly := p
        status := statusComplete .ok s.status } := rfl

/-- A constructed calculator is bound to its slot's polynomial. -/
@[simp] theorem construct_poly (w : WellKnown) (capHw : Bool) : (w.construct capHw).poly = w.poly := by
  cases w <;> cases capHw <;> rfl

/-- A constructed calculator is hardware-backed only in slot 4 and with the capability (R41, R161). -/
theorem construct_isHardware (w : WellKnown) (capHw : Bool) :
    (w.construct capHw).isHardware = (decide (w = .crc32cBest) && capHw) := by
  cases w <;> cases capHw <;> rfl

/-- GET by the slot MUX chooses (R167). -/
theorem getCalculator_known {s : State} {w : WellKnown} (h : mux s.poly = .known w) :
    s.getCalculator = s.selectKnown w := by
  simp [State.getCalculator, h]

theorem getCalculator_scratch {s : State} (h : mux s.poly = .scratch) :
    s.getCalculator = s.selectScratch s.poly := by
  simp [State.getCalculator, h]

/-- MUX answers a well-known slot only for that slot's polynomial (R162). -/
theorem mux_known_poly {p : Word} {w : WellKnown} (h : mux p = .known w) : p = w.poly := by
  unfold mux at h
  split at h
  · rename_i hp
    cases h
    exact hp
  · split at h
    · rename_i hp
      cases h
      exact hp
    · split at h
      · rename_i hp
        cases h
        exact hp
      · split at h
        · rename_i hp
          cases h
          exact hp
        · cases h

end Sys2Proof.Machine
end

