-- ==== Sys2Proof/Laws/Commands.lean ====
section
/-! SUPPORT. What each command does, said once: the equations of exec and every way HASH can end. -/
namespace Sys2Proof.Machine

@[simp] theorem exec_get (s : State) : exec .get s = .next s.getCalculator := rfl
@[simp] theorem exec_selectCrc32Normal (s : State) : exec .selectCrc32Normal s = .next (s.selectKnown .crc32Normal) := rfl
@[simp] theorem exec_selectCrc32Zip (s : State) : exec .selectCrc32Zip s = .next (s.selectKnown .crc32Zip) := rfl
@[simp] theorem exec_selectCrc32c (s : State) : exec .selectCrc32c s = .next (s.selectKnown .crc32c) := rfl
@[simp] theorem exec_selectCrc32cNormal (s : State) : exec .selectCrc32cNormal s = .next (s.selectKnown .crc32cNormal) := rfl
@[simp] theorem exec_selectCrc32cBest (s : State) : exec .selectCrc32cBest s = .next (s.selectKnown .crc32cBest) := rfl
@[simp] theorem exec_hash (s : State) : exec .hash s = .next s.hashCommand := rfl

/-- The bytes of HASH's footprint, lowest address first (R50, R54). -/
def State.hashData (s : State) : List Byte := s.hashFootprint.map s.mem.byteAt

theorem hashData_eq (s : State) : (s.memRead s.hashStart s.hashCount).2 = s.hashData := rfl

/-- A HASH whose checks pass, that no store overlaps, on a valid slot: the calculator's checksum of the footprint. -/
theorem hashBuffer_calculator {s : State} {c : Calculator} (hr : s.hashRaced = false)
    (hc : s.calculatorAt (selSlot s.sel) = some c) :
    s.hashBuffer =
      { s with
        reads := s.reads ++ s.hashFootprint
        result := c.checksum s.hashData s.seed (s.capHw && s.capWide)
        status := statusComplete .ok s.status } := by
  have hr' : (s.memRead s.hashStart s.hashCount).1.hashRaced = false := hr
  have hc' : (s.memRead s.hashStart s.hashCount).1.calculatorAt
      (selSlot (s.memRead s.hashStart s.hashCount).1.sel) = some c := hc
  simp only [State.hashBuffer, State.hashResult, hr', hc']
  rfl

/-- A HASH whose checks pass and that a store overlaps, or whose slot is not valid: a free value. -/
theorem hashBuffer_free {s : State} (h : s.hashRaced = true ∨ s.calculatorAt (selSlot s.sel) = none) :
    s.hashBuffer =
      { s with
        reads := s.reads ++ s.hashFootprint
        draws := s.draws + 1
        result := Config.freeWord s.draws
        status := statusComplete .ok s.status } := by
  by_cases hr : s.hashRaced = true
  · have hr' : (s.memRead s.hashStart s.hashCount).1.hashRaced = true := hr
    simp only [State.hashBuffer, State.hashResult, hr']
    rfl
  · have hc := h.resolve_left hr
    have hr' : (s.memRead s.hashStart s.hashCount).1.hashRaced = false := Bool.eq_false_iff.2 hr
    have hc' : (s.memRead s.hashStart s.hashCount).1.calculatorAt
        (selSlot (s.memRead s.hashStart s.hashCount).1.sel) = none := hc
    simp only [State.hashBuffer, State.hashResult, hr', hc']
    rfl

theorem hashCommand_noSel {s : State} (h : selValid s.sel = false) : s.hashCommand = s.complete .noSel := by
  simp [State.hashCommand, h]

theorem hashCommand_range {s : State} (hv : selValid s.sel = true) (h : s.hashOutOfRange = true) :
    s.hashCommand = s.complete .range := by
  simp [State.hashCommand, hv, h]

theorem hashCommand_bus {s : State} (hv : selValid s.sel = true) (hr : s.hashOutOfRange = false)
    (h : s.hashUnreadable = true) : s.hashCommand = s.complete .bus := by
  simp [State.hashCommand, hv, hr, h]

theorem hashCommand_buffer {s : State} (hv : selValid s.sel = true) (hr : s.hashOutOfRange = false)
    (h : s.hashUnreadable = false) : s.hashCommand = s.hashBuffer := by
  simp [State.hashCommand, hv, hr, h]

/-- Every way HASH can end (R169, R206), each with the conditions that lead to it. -/
theorem hashCommand_cases (s : State) :
    (selValid s.sel = false ∧ s.hashCommand = s.complete .noSel) ∨
    (selValid s.sel = true ∧ s.hashOutOfRange = true ∧ s.hashCommand = s.complete .range) ∨
    (selValid s.sel = true ∧ s.hashOutOfRange = false ∧ s.hashUnreadable = true ∧ s.hashCommand = s.complete .bus) ∨
    (selValid s.sel = true ∧ s.hashOutOfRange = false ∧ s.hashUnreadable = false ∧ s.hashCommand = s.hashBuffer) := by
  cases hv : selValid s.sel with
  | false => exact .inl ⟨rfl, hashCommand_noSel hv⟩
  | true =>
    cases hr : s.hashOutOfRange with
    | true => exact .inr (.inl ⟨rfl, rfl, hashCommand_range hv hr⟩)
    | false =>
      cases hu : s.hashUnreadable with
      | true => exact .inr (.inr (.inl ⟨rfl, rfl, rfl, hashCommand_bus hv hr hu⟩))
      | false => exact .inr (.inr (.inr ⟨rfl, rfl, rfl, hashCommand_buffer hv hr hu⟩))

/-- The two ways a HASH whose checks passed can go on. -/
theorem hashBuffer_cases (s : State) :
    (∃ c, s.hashRaced = false ∧ s.calculatorAt (selSlot s.sel) = some c ∧
      s.hashBuffer =
        { s with
          reads := s.reads ++ s.hashFootprint
          result := c.checksum s.hashData s.seed (s.capHw && s.capWide)
          status := statusComplete .ok s.status }) ∨
    ((s.hashRaced = true ∨ s.calculatorAt (selSlot s.sel) = none) ∧
      s.hashBuffer =
        { s with
          reads := s.reads ++ s.hashFootprint
          draws := s.draws + 1
          result := Config.freeWord s.draws
          status := statusComplete .ok s.status }) := by
  cases hr : s.hashRaced with
  | true => exact .inr ⟨.inl rfl, hashBuffer_free (.inl hr)⟩
  | false =>
    cases hc : s.calculatorAt (selSlot s.sel) with
    | none => exact .inr ⟨.inr rfl, hashBuffer_free (.inr hc)⟩
    | some c => exact .inl ⟨c, rfl, rfl, hashBuffer_calculator hr hc⟩

end Sys2Proof.Machine
end

