-- ==== Sys2Proof/Laws/Events.lean ====
section
/-! SUPPORT. What a bus event and a step can do, said once: the cases that every proof about `step` goes through. -/
namespace Sys2Proof.Machine

/-- An overlapped event changes the read data only, and the BUSY answers depend on nothing it changes. -/
theorem overlapped_eq (s : State) (o : Overlap) : s.overlapped o = { s with rdata := (s.overlapped o).rdata } := by
  cases o with
  | store a b => rfl
  | access acc =>
    simp only [State.overlapped, State.busyAccess]
    split
    · rfl
    · rfl
    · split <;> rfl

theorem foldl_overlapped_eq (os : List Overlap) (s : State) :
    os.foldl State.overlapped s = { s with rdata := (os.foldl State.overlapped s).rdata } := by
  induction os generalizing s with
  | nil => rfl
  | cons o rest ih =>
    rw [List.foldl_cons, ih, overlapped_eq s o]

/-- Everything the start of a command can do: BUSY rises, DONE falls, the read log is empty, and the read data is that of the
overlapped accesses. -/
theorem beginCommand_eq (s : State) :
    s.beginCommand =
      { s with status := statusBegin s.status, reads := [], rdata := s.beginCommand.rdata } :=
  foldl_overlapped_eq _ _

/-- With nothing overlapping it, the start of a command changes STATUS and the read log only. -/
theorem beginCommand_alone {s : State} (h : s.overlap = []) :
    s.beginCommand = { s with status := statusBegin s.status, reads := [] } := by
  rw [State.beginCommand, h]
  rfl

@[simp] theorem beginCommand_status (s : State) : s.beginCommand.status = statusBegin s.status := by rw [beginCommand_eq]
@[simp] theorem beginCommand_poly (s : State) : s.beginCommand.poly = s.poly := by rw [beginCommand_eq]
@[simp] theorem beginCommand_seed (s : State) : s.beginCommand.seed = s.seed := by rw [beginCommand_eq]
@[simp] theorem beginCommand_addr (s : State) : s.beginCommand.addr = s.addr := by rw [beginCommand_eq]
@[simp] theorem beginCommand_len (s : State) : s.beginCommand.len = s.len := by rw [beginCommand_eq]
@[simp] theorem beginCommand_result (s : State) : s.beginCommand.result = s.result := by rw [beginCommand_eq]
@[simp] theorem beginCommand_sel (s : State) : s.beginCommand.sel = s.sel := by rw [beginCommand_eq]
@[simp] theorem beginCommand_selpoly (s : State) : s.beginCommand.selpoly = s.selpoly := by rw [beginCommand_eq]
@[simp] theorem beginCommand_tblidx (s : State) : s.beginCommand.tblidx = s.tblidx := by rw [beginCommand_eq]
@[simp] theorem beginCommand_slots (s : State) : s.beginCommand.slots = s.slots := by rw [beginCommand_eq]
@[simp] theorem beginCommand_capHw (s : State) : s.beginCommand.capHw = s.capHw := by rw [beginCommand_eq]
@[simp] theorem beginCommand_capWide (s : State) : s.beginCommand.capWide = s.capWide := by rw [beginCommand_eq]
@[simp] theorem beginCommand_strapHw (s : State) : s.beginCommand.strapHw = s.strapHw := by rw [beginCommand_eq]
@[simp] theorem beginCommand_strapWide (s : State) : s.beginCommand.strapWide = s.strapWide := by rw [beginCommand_eq]
@[simp] theorem beginCommand_base (s : State) : s.beginCommand.base = s.base := by rw [beginCommand_eq]
@[simp] theorem beginCommand_admits (s : State) : s.beginCommand.admits = s.admits := by rw [beginCommand_eq]
@[simp] theorem beginCommand_mem (s : State) : s.beginCommand.mem = s.mem := by rw [beginCommand_eq]
@[simp] theorem beginCommand_inbox (s : State) : s.beginCommand.inbox = s.inbox := by rw [beginCommand_eq]
@[simp] theorem beginCommand_overlap (s : State) : s.beginCommand.overlap = s.overlap := by rw [beginCommand_eq]
@[simp] theorem beginCommand_reads (s : State) : s.beginCommand.reads = [] := by rw [beginCommand_eq]
@[simp] theorem beginCommand_draws (s : State) : s.beginCommand.draws = s.draws := by rw [beginCommand_eq]

/-- What an overlapped event does, does not depend on the events still to come. -/
theorem overlapped_inbox (s : State) (q : List BusEvent) (o : Overlap) :
    State.overlapped { s with inbox := q } o = { s.overlapped o with inbox := q } := by
  cases o with
  | store a b => rfl
  | access acc =>
    simp only [State.overlapped, State.busyAccess]
    cases acc.target s.base with
    | elsewhere => rfl
    | malformed => rfl
    | register r => cases acc.op <;> cases r <;> rfl

theorem foldl_overlapped_inbox (os : List Overlap) (s : State) (q : List BusEvent) :
    os.foldl State.overlapped { s with inbox := q } = { os.foldl State.overlapped s with inbox := q } := by
  induction os generalizing s with
  | nil => rfl
  | cons o rest ih => rw [List.foldl_cons, overlapped_inbox, ih, List.foldl_cons]

/-- Nor does the start of a command. -/
theorem beginCommand_withInbox (s : State) (q : List BusEvent) :
    State.beginCommand { s with inbox := q } = { s.beginCommand with inbox := q } := by
  rw [State.beginCommand]
  exact foldl_overlapped_inbox s.overlap { s with status := statusBegin s.status, reads := [] } q

/-- `thenNext` answers a next state only from a next state. -/
theorem thenNext_next {o : Host.Outcome State Fault Refusal} {f : State → State} {t : State}
    (h : thenNext o f = .next t) : ∃ u, o = .next u ∧ t = f u := by
  cases o with
  | next u => exact ⟨u, rfl, by simpa [thenNext] using h.symm⟩
  | fault r => cases h
  | refused r => cases h

/-- Every way a write to CMD can go on (R170). -/
theorem onCmdWrite_cases {s t : State} {w : Word} (h : s.onCmdWrite w = .next t) :
    (∃ i u, decode w = .ok i ∧ exec i s.beginCommand = .next u ∧ t = u.settle) ∨
    (∃ r, decode w = .error r ∧ t = (s.beginCommand.complete .illegal).settle) := by
  rw [State.onCmdWrite] at h
  cases hd : decode w with
  | ok i =>
    rw [hd] at h
    obtain ⟨u, hu, ht⟩ := thenNext_next h
    exact .inl ⟨i, u, rfl, hu, ht⟩
  | error r =>
    rw [hd] at h
    exact .inr ⟨r, rfl, by simpa using h.symm⟩

/-- Every way a host write can go on. -/
theorem hostWrite_cases {s t : State} {r : HostReg} {v : Word} (h : s.hostWrite r v = .next t) :
    (r = .cmd ∧ s.onCmdWrite v = .next t) ∨ (r ≠ .cmd ∧ t = s.writeReg r v) := by
  rw [State.hostWrite] at h
  split at h
  · exact .inl ⟨‹_›, h⟩
  · exact .inr ⟨‹_›, by simpa using h.symm⟩

/-- Every way a host access can go on (R35): it goes elsewhere, it reads, or it writes. -/
theorem hostAccess_cases {s t : State} {acc : HostAccess} (h : s.hostAccess acc = .next t) :
    t = s ∨ (∃ r, t = { s with rdata := s.readReg r }) ∨ ∃ r v, s.hostWrite r v = .next t := by
  rw [State.hostAccess] at h
  split at h
  · exact .inl (by simpa using h.symm)
  · cases h
  · split at h
    · exact .inr (.inl ⟨_, by simpa using h.symm⟩)
    · exact .inr (.inr ⟨_, _, h⟩)
    · exact .inr (.inr ⟨_, _, h⟩)

/-- Everything the arming of an overlapped event can do. -/
theorem arm_cases {s t : State} {o : Overlap} (h : s.arm o = .next t) :
    t = { s with overlap := s.overlap ++ [o] } := by
  unfold State.arm at h
  split at h
  · simpa using h.symm
  · split at h
    · simpa using h.symm
    · cases h
    · simpa using h.symm

/-- Every way an event can go on. -/
theorem runEvent_cases {s t : State} {e : BusEvent} (h : s.runEvent e = .next t) :
    (∃ acc, e = .host acc ∧ s.hostAccess acc = .next t) ∨
    (∃ o, e = .during o ∧ t = { s with overlap := s.overlap ++ [o] }) ∨
    (∃ a b, e = .store a b ∧ t = { s with mem := s.mem.store a.toNat b }) ∨
    (∃ hw wide, e = .straps hw wide ∧ t = { s with strapHw := hw, strapWide := wide }) ∨
    (e = .reset ∧ t = s.resetAction) ∨
    (∃ w, e = .cmdCut w ∧ t = s.beginCommand.settle.resetAction) := by
  cases e with
  | host acc => exact .inl ⟨acc, rfl, h⟩
  | during o => exact .inr (.inl ⟨o, rfl, arm_cases h⟩)
  | store a b => exact .inr (.inr (.inl ⟨a, b, rfl, by simpa [State.runEvent] using h.symm⟩))
  | straps hw wide => exact .inr (.inr (.inr (.inl ⟨hw, wide, rfl, by simpa [State.runEvent] using h.symm⟩)))
  | reset => exact .inr (.inr (.inr (.inr (.inl ⟨rfl, by simpa [State.runEvent] using h.symm⟩))))
  | cmdCut w => exact .inr (.inr (.inr (.inr (.inr ⟨w, rfl, by simpa [State.runEvent] using h.symm⟩))))

/-- Every way a step can go on: idle, or the oldest event of the inbox. -/
theorem step_cases {s t : State} (h : step s = .next t) :
    (s.inbox = [] ∧ t = s) ∨
    ∃ e rest, s.inbox = e :: rest ∧ State.runEvent { s with inbox := rest } e = .next t := by
  rw [step] at h
  split at h
  · exact .inl ⟨‹_›, by simpa using h.symm⟩
  · exact .inr ⟨_, _, ‹_›, h⟩

end Sys2Proof.Machine
end

