-- ==== Sys2Proof/Laws/Memory.lean ====
section
/-! SUPPORT. Buffer memory: every operation keeps the canonical form, a read after a store to the same address gives the
stored byte, and a store leaves every other address alone. -/
namespace Sys2Proof.Machine

theorem Memory.mem_store {m : Memory} {a : Nat} {b : Byte} {c : Host.Cell} (h : c ∈ m.store a b) :
    c = (a, b) ∨ c ∈ m := by
  induction m with
  | nil => simpa [Memory.store] using h
  | cons d rest ih =>
    rw [Memory.store] at h
    split at h
    · simpa using h
    · split at h
      · rcases List.mem_cons.1 h with h | h
        · exact .inl h
        · exact .inr (List.mem_cons_of_mem _ h)
      · rcases List.mem_cons.1 h with h | h
        · exact .inr (h ▸ List.mem_cons_self)
        · exact (ih h).imp id (List.mem_cons_of_mem _)

/-- A store of a byte at a buffer address keeps the canonical form. -/
theorem Memory.store_wf {m : Memory} {a : Nat} {b : Byte} (hm : m.wf) (ha : a < addressSpace) : (m.store a b).wf := by
  refine ⟨?_, fun c hc => ?_⟩
  · have hp := hm.1
    clear hm
    induction m with
    | nil => simp [Memory.store]
    | cons d rest ih =>
      rw [Memory.store]
      rw [List.pairwise_cons] at hp
      split
      · rename_i hlt
        refine List.pairwise_cons.2 ⟨fun c hc => ?_, List.pairwise_cons.2 hp⟩
        rcases List.mem_cons.1 hc with rfl | hc
        · exact hlt
        · exact Nat.lt_trans hlt (hp.1 c hc)
      · split
        · rename_i heq
          exact List.pairwise_cons.2 ⟨fun c hc => heq ▸ hp.1 c hc, hp.2⟩
        · refine List.pairwise_cons.2 ⟨fun c hc => ?_, ih hp.2⟩
          rcases Memory.mem_store hc with rfl | hc
          · show d.1 < a
            omega
          · exact hp.1 c hc
  · rcases Memory.mem_store hc with rfl | hc
    · exact ha
    · exact hm.2 c hc

@[simp] theorem Memory.cell_store_same (m : Memory) (a : Nat) (b : Byte) : (m.store a b).cell a = some b := by
  induction m with
  | nil => simp [Memory.store, Memory.cell]
  | cons d rest ih =>
    rw [Memory.store]
    split
    · simp [Memory.cell]
    · split
      · simp [Memory.cell]
      · rename_i h
        rw [Memory.cell, if_neg (Ne.symm h), ih]

theorem Memory.cell_store_other {m : Memory} {a a' : Nat} (b : Byte) (h : a' ≠ a) :
    (m.store a b).cell a' = m.cell a' := by
  induction m with
  | nil => simp [Memory.store, Memory.cell, Ne.symm h]
  | cons d rest ih =>
    rw [Memory.store]
    split
    · rw [Memory.cell, if_neg (Ne.symm h)]
    · split
      · rename_i heq
        subst heq
        simp [Memory.cell, Ne.symm h]
      · simp only [Memory.cell, ih]

/-- A read after a store to the same address gives the stored byte. -/
@[simp] theorem Memory.byteAt_store_same (m : Memory) (a : Nat) (b : Byte) : (m.store a b).byteAt a = b := by
  simp [Memory.byteAt]

/-- A store leaves every other address alone. -/
theorem Memory.byteAt_store_other {m : Memory} {a a' : Nat} (b : Byte) (h : a' ≠ a) :
    (m.store a b).byteAt a' = m.byteAt a' := by
  rw [Memory.byteAt, Memory.cell_store_other b h, Memory.byteAt]

/-- What one overlapped event does to memory keeps the canonical form. -/
theorem Overlap.land_wf {m : Memory} (o : Overlap) (hm : m.wf) : (o.land m).wf := by
  cases o with
  | store a b => exact Memory.store_wf hm a.isLt
  | access acc => exact hm

/-- The landing of all overlapped stores keeps the canonical form. -/
theorem settle_memory_wf {s : State} (h : s.mem.wf) : s.settle.mem.wf := by
  show Memory.wf (s.overlap.foldl Overlap.land s.mem)
  generalize s.mem = m at h
  induction s.overlap generalizing m with
  | nil => exact h
  | cons o rest ih => exact ih _ (Overlap.land_wf o h)

/-- Reset's memory has the canonical form. -/
theorem reset_memory_wf : State.reset.mem.wf := by
  refine ⟨List.Pairwise.nil, fun c hc => ?_⟩
  cases hc

end Sys2Proof.Machine
end

