-- ==== Sys2Proof/Laws/PerInstr.lean ====
section
/-! SUPPORT. A law about every command as syntax: its word is well formed, and its fields are those of the word. -/
namespace Sys2Proof.Laws.EncodedWellFormed
open Sys2Proof

/-- The command is well formed, the checks of format CW accept its word (R70), and taking the word apart gives its fields back. -/
def Statement (i : Instr) : Prop :=
  i.wf = true ∧ (CommandWord.ofWord (encode i)).wf = true ∧ CommandWord.ofWord (encode i) = encodeFields i

theorem get : Statement .get := by unfold Statement; decide
theorem selectCrc32Normal : Statement .selectCrc32Normal := by unfold Statement; decide
theorem selectCrc32Zip : Statement .selectCrc32Zip := by unfold Statement; decide
theorem selectCrc32c : Statement .selectCrc32c := by unfold Statement; decide
theorem selectCrc32cNormal : Statement .selectCrc32cNormal := by unfold Statement; decide
theorem selectCrc32cBest : Statement .selectCrc32cBest := by unfold Statement; decide
theorem hash : Statement .hash := by unfold Statement; decide

end Sys2Proof.Laws.EncodedWellFormed
end

