-- ==== Sys2Proof/Laws/Tables.lean ====
section
/-! SUPPORT. The table builder and the loops of the engines: one lemma for each definition, so that no proof about a table
unfolds vectors, and none about an engine unfolds its pattern match. -/
namespace Sys2Proof.Machine

/-- A built entry is what R102 says, for every slice and byte. -/
@[simp] theorem entry_build (p : Word) (t : Fin 16) (i : Byte) : (build p).entry t i = buildEntry p t i.toNat := by
  have h : ∀ (j : Nat) (hj : j < 256), (buildSlice p t)[j] = buildEntry p t j := by
    intro j hj
    simp [buildSlice]
  have h' : (build p).get t = buildSlice p t := by
    rw [Vector.get_eq_getElem]
    simp [build]
  rw [Table.entry, h']
  exact h i.toNat i.isLt

theorem stepBits_succ (n : Nat) (v p : Word) : stepBits (n + 1) v p = stepBits n (step1 v p) p := rfl

theorem stepBits_add (m n : Nat) (v p : Word) : stepBits (m + n) v p = stepBits n (stepBits m v p) p := by
  induction m generalizing v with
  | zero => rw [Nat.zero_add, stepBits]
  | succ m ih => rw [Nat.succ_add, stepBits, stepBits, ih]

theorem reduce8Iter_succ (n : Nat) (v p : Word) : reduce8Iter (n + 1) v p = reduce8Iter n (reduce8 v p) p := rfl

theorem reduce8Iter_add (m n : Nat) (v p : Word) : reduce8Iter (m + n) v p = reduce8Iter n (reduce8Iter m v p) p := by
  induction m generalizing v with
  | zero => rw [Nat.zero_add, reduce8Iter]
  | succ m ih => rw [Nat.succ_add, reduce8Iter, reduce8Iter, ih]

/-- Applying REDUCE8 last instead of first. -/
theorem reduce8Iter_succ' (n : Nat) (v p : Word) : reduce8Iter (n + 1) v p = reduce8 (reduce8Iter n v p) p := by
  rw [reduce8Iter_add n 1]
  rfl

/-- `REDUCE8^n` is 8n bits of reduction. -/
theorem reduce8Iter_eq_stepBits (n : Nat) (v p : Word) : reduce8Iter n v p = stepBits (8 * n) v p := by
  induction n generalizing v with
  | zero => rfl
  | succ n ih => rw [reduce8Iter, ih, Nat.mul_succ, Nat.add_comm, stepBits_add, reduce8]

/-- STEP1 with its condition as a mask: the form in which it is linear. -/
theorem step1_eq_xor (v p : Word) : step1 v p = (v >>> 1) ^^^ (if v.getLsbD 0 then p else 0) := by
  unfold step1
  split <;> simp

/-- The bytes of a 4-byte chunk, lowest address first (R51). -/
theorem chunk4_bytes (b0 b1 b2 b3 : Byte) :
    (chunk4 b0 b1 b2 b3).extractLsb' 0 8 = b0 ∧ (chunk4 b0 b1 b2 b3).extractLsb' 8 8 = b1 ∧
      (chunk4 b0 b1 b2 b3).extractLsb' 16 8 = b2 ∧ (chunk4 b0 b1 b2 b3).extractLsb' 24 8 = b3 := by
  refine ⟨?_, ?_, ?_, ?_⟩ <;> (ext i hi; simp [chunk4]; interval_cases i <;> simp)

/-- The halves of an 8-byte chunk (R51). -/
theorem chunk8_halves (b0 b1 b2 b3 b4 b5 b6 b7 : Byte) :
    (chunk8 b0 b1 b2 b3 b4 b5 b6 b7).extractLsb' 0 32 = chunk4 b0 b1 b2 b3 ∧
      (chunk8 b0 b1 b2 b3 b4 b5 b6 b7).extractLsb' 32 32 = chunk4 b4 b5 b6 b7 := by
  refine ⟨?_, ?_⟩ <;> (ext i hi; simp [chunk4, chunk8]; interval_cases i <;> simp)

/-- The main loop stops on fewer than 16 bytes. -/
theorem s16MainLoop_short (T : Table) (crc : Word) {data : List Byte} (h : data.length < 16) :
    s16MainLoop T crc data = (crc, data) := by
  unfold s16MainLoop
  split
  · simp at h
    omega
  · rfl

/-- The 8-byte loop stops on fewer than 8 bytes. -/
theorem hwLoop8_short (crc : Word) {data : List Byte} (h : data.length < 8) : hwLoop8 crc data = (crc, data) := by
  unfold hwLoop8
  split
  · simp at h
    omega
  · rfl

/-- The 4-byte loop stops on fewer than 4 bytes. -/
theorem hwLoop4_short (crc : Word) {data : List Byte} (h : data.length < 4) : hwLoop4 crc data = (crc, data) := by
  unfold hwLoop4
  split
  · simp at h
    omega
  · rfl

/-- The tail loop is a left fold. -/
theorem s16TailLoop_eq_foldl (T : Table) (crc : Word) (data : List Byte) :
    s16TailLoop T crc data = data.foldl (s16Tail T) crc := by
  induction data generalizing crc with
  | nil => rfl
  | cons x rest ih => exact ih _

/-- The 1-byte loop is a left fold. -/
theorem hwLoop1_eq_foldl (crc : Word) (data : List Byte) : hwLoop1 crc data = data.foldl crc32cU8 crc := by
  induction data generalizing crc with
  | nil => rfl
  | cons x rest ih => exact ih _

end Sys2Proof.Machine
end

