-- ==== Sys2Proof/Tests/Slice0.lean ====
section
/-! SUPPORT. Small tests of the model, with expected values from spec/ (mostly spec/95_test_vectors.md), and for every obligation
with hypotheses a concrete state that meets them. -/
namespace Sys2Proof.Tests
open Sys2Proof Sys2Proof.Machine

/-! ### Small states -/

/-- A platform with given straps; the readable addresses are 16 bytes at 0x1000 and the top 16 bytes of buffer memory. -/
def platform (hw wide : Bool) : State :=
  State.resetOn hw wide 0x40000000 [{ first := 0x1000, count := 16 }, { first := 0xFFFFFFF0, count := 16 }]

/-- "123456789" at 0x1000. -/
def digits : Memory :=
  [(0x1000, 0x31#8), (0x1001, 0x32#8), (0x1002, 0x33#8), (0x1003, 0x34#8), (0x1004, 0x35#8), (0x1005, 0x36#8),
    (0x1006, 0x37#8), (0x1007, 0x38#8), (0x1008, 0x39#8)]

/-- The check string is in memory and named by ADDR and LEN. -/
def loaded (s : State) : State := { s with mem := digits, addr := 0x1000#32, len := 9#32 }

/-- One well-known slot is built and selected. -/
def holding (s : State) (w : WellKnown) : State :=
  { s with
    slots := SlotStore.empty.set (.known w) (w.construct s.capHw)
    sel := selAfter w s.capHw, selpoly := wellKnownPoly w, status := 0x2#32 }

/-- The Zip calculator is selected and the check string loaded. -/
def zip : State := loaded (holding (platform true true) .crc32Zip)

/-- The best CRC-32C calculator is selected and the check string loaded. -/
def best (hw wide : Bool) : State := loaded (holding (platform hw wide) .crc32cBest)

/-- The next bus event. -/
def withEvent (s : State) (e : BusEvent) : State := { s with inbox := [e] }

/-- The next state, if there is one. -/
def stateOf (o : Host.Outcome State Fault Refusal) : Option State :=
  match o with
  | .next s => some s
  | .fault _ => none
  | .refused _ => none

/-! ### Decoding: words written out from R74, R75 and V-ENC -/

theorem test_decode_get : decode 0x00000001#32 = .ok .get := by decide
theorem test_decode_select_0 : decode 0x00000002#32 = .ok .selectCrc32Normal := by decide
theorem test_decode_select_1 : decode 0x00000012#32 = .ok .selectCrc32Zip := by decide
theorem test_decode_select_2 : decode 0x00000022#32 = .ok .selectCrc32c := by decide
theorem test_decode_select_3 : decode 0x00000032#32 = .ok .selectCrc32cNormal := by decide
theorem test_decode_select_4 : decode 0x00000042#32 = .ok .selectCrc32cBest := by decide
theorem test_decode_hash : decode 0x00000003#32 = .ok .hash := by decide
theorem test_decode_zero : decode 0x00000000#32 = .error .operation := by decide
theorem test_decode_get_slot : decode 0x00000011#32 = .error .slotNotZero := by decide
theorem test_decode_select_5 : decode 0x00000052#32 = .error .slotOutOfRange := by decide
theorem test_decode_select_7 : decode 0x00000072#32 = .error .slotOutOfRange := by decide
theorem test_decode_bit_7 : decode 0x00000082#32 = .error .reservedBits := by decide
theorem test_decode_hash_slot : decode 0x00000013#32 = .error .slotNotZero := by decide
theorem test_decode_bit_31 : decode 0x80000003#32 = .error .reservedBits := by decide
theorem test_decode_op_4 : decode 0x00000004#32 = .error .operation := by decide
theorem test_decode_op_15 : decode 0x0000000F#32 = .error .operation := by decide
theorem test_decode_all_ones : decode 0xFFFFFFFF#32 = .error .operation := by decide
theorem test_decode_table_word : decodeTableWord 32 0x42 = some .selectCrc32cBest := by decide

/-! ### Ill-formed command words: one for each check -/

theorem test_illFormed_operation : CommandWord.wf { op := 4, slot := 0, rsv := 0 } = false := by decide
theorem test_illFormed_reserved : CommandWord.wf { op := 2, slot := 1, rsv := 1 } = false := by decide
theorem test_illFormed_slot_select : CommandWord.wf { op := 2, slot := 5, rsv := 0 } = false := by decide
theorem test_illFormed_slot_hash : CommandWord.wf { op := 3, slot := 1, rsv := 0 } = false := by decide
theorem test_illFormed_refused : decodeFields { op := 2, slot := 6, rsv := 0 } = .error .slotOutOfRange := by decide
theorem test_wellFormed_select : CommandWord.wf { op := 2, slot := 4, rsv := 0 } = true := by decide

/-! ### One step of each command (V-MUX, V-CMD, V-ERR, V-S16, V-HW) -/

/-- P1 line 2. -/
theorem test_get_zip :
    (stateOf (step ({ platform true true with poly := 0xEDB88320#32 }.withFetchWord 32 1))).map
      (fun t => (t.sel, t.selpoly, t.status)) = some (0x11#32, 0xEDB88320#32, 0x2#32) := by decide +kernel

/-- V-CMD: one bit from the Zip polynomial names no well-known slot. -/
theorem test_get_scratch :
    (stateOf (step ({ platform true true with poly := 0xEDB88321#32 }.withFetchWord 32 1))).map
      (fun t => (t.sel, t.selpoly, t.slots.crc32Zip.isSome)) = some (0x51#32, 0xEDB88321#32, false) := by decide +kernel

theorem test_select_0 :
    (stateOf (step ((platform true true).withFetchWord 32 0x02))).map (fun t => (t.sel, t.selpoly)) =
      some (0x01#32, 0x04C11DB7#32) := by decide +kernel
theorem test_select_1 :
    (stateOf (step ((platform true true).withFetchWord 32 0x12))).map (fun t => (t.sel, t.selpoly)) =
      some (0x11#32, 0xEDB88320#32) := by decide +kernel
theorem test_select_2 :
    (stateOf (step ((platform true true).withFetchWord 32 0x22))).map (fun t => (t.sel, t.selpoly)) =
      some (0x21#32, 0x82F63B78#32) := by decide +kernel
theorem test_select_3 :
    (stateOf (step ((platform true true).withFetchWord 32 0x32))).map (fun t => (t.sel, t.selpoly)) =
      some (0x31#32, 0x1EDC6F41#32) := by decide +kernel
theorem test_select_4_hardware :
    (stateOf (step ((platform true false).withFetchWord 32 0x42))).map (fun t => (t.sel, t.selpoly)) =
      some (0x43#32, 0x82F63B78#32) := by decide +kernel
theorem test_select_4_table :
    (stateOf (step ((platform false true).withFetchWord 32 0x42))).map (fun t => (t.sel, t.selpoly)) =
      some (0x41#32, 0x82F63B78#32) := by decide +kernel

/-- V-SRC-1, on the slice-by-16 engine. -/
theorem test_hash_zip :
    (stateOf (step (zip.withFetchWord 32 3))).map (fun t => (t.result, t.status)) = some (0xCBF43926#32, 0x2#32) := by
  decide +kernel

/-- V-SRC-2, on the hardware engine with the wide tier. -/
theorem test_hash_best :
    (stateOf (step ((best true true).withFetchWord 32 3))).map (fun t => (t.result, t.status)) =
      some (0xE3069283#32, 0x2#32) := by decide +kernel

/-! ### The engines, the builder and the errors -/

/-- V-S16, the first block of 00..0F. -/
theorem test_block :
    s16Block (build 0xEDB88320#32) 0xFFFFFFFF#32 0 1 2 3 4 5 6 7 8 9 10 11 12 13 14 15 = 0x31311D77#32 := by decide +kernel
/-- V-HW, "1234567" on the wide tier. -/
theorem test_hwEngine : hwEngine [0x31, 0x32, 0x33, 0x34, 0x35, 0x36, 0x37] 0 true = 0x124297EA#32 := by decide +kernel
/-- V-HW, "12345678". -/
theorem test_u64 : crc32cU64 0xFFFFFFFF#32 0x3837363534333231#64 = 0x9F787F65#32 := by decide +kernel
/-- V-TB, the last slice. -/
theorem test_build : (build 0x82F63B78#32).entry 15 0xFF = 0x8FDA7DFA#32 := by decide +kernel
/-- V-ERR: no selection, with a wrapping range. -/
theorem test_noSelection :
    (stateOf (step ({ platform true true with addr := 0xFFFFFFF0#32, len := 0x20#32 }.withFetchWord 32 3))).map (·.status) =
      some 0x122#32 := by decide +kernel
/-- V-ERR: wrap by one byte. -/
theorem test_wrap :
    (stateOf (step ({ zip with addr := 0xFFFFFFF0#32, len := 0x11#32 }.withFetchWord 32 3))).map (·.status) =
      some 0x132#32 := by decide +kernel
/-- V-ERR: the exact top of memory is legal. -/
theorem test_exactTop :
    (stateOf (step ({ zip with addr := 0xFFFFFFF0#32, len := 0x10#32 }.withFetchWord 32 3))).map (·.status) =
      some 0x2#32 := by decide +kernel
/-- V-ERR: LEN = 0 at any ADDR. -/
theorem test_lenZero :
    (stateOf (step ({ zip with addr := 0xFFFFFFFF#32, len := 0#32, seed := 7#32 }.withFetchWord 32 3))).map
      (fun t => (t.result, t.status, t.reads)) = some (7#32, 0x2#32, []) := by decide +kernel
/-- V-ERR: an unreadable byte. -/
theorem test_unreadable :
    (stateOf (step ({ zip with addr := 0x100D#32, len := 4#32 }.withFetchWord 32 3))).map (fun t => (t.result, t.status)) =
      some (0#32, 0x142#32) := by decide +kernel
/-- V-ERR: the word 0, and the word 0x52. -/
theorem test_illegal :
    (stateOf (step (zip.withFetchWord 32 0))).map (fun t => (t.sel, t.status)) = some (0x11#32, 0x112#32) ∧
    (stateOf (step (zip.withFetchWord 32 0x52))).map (·.status) = some 0x112#32 := by decide +kernel
/-- V-RST: CAP after reset, under the four strap settings. -/
theorem test_cap :
    (platform false false).readReg .cap = 0 ∧ (platform false true).readReg .cap = 0 ∧
    (platform true false).readReg .cap = 1 ∧ (platform true true).readReg .cap = 3 := by decide
/-- P1 line 9: `tbl 1, 0, 1`. -/
theorem test_tbldata : { zip with tblidx := 0x1001#32 }.readReg .tbldata = 0x77073096#32 := by decide +kernel

/-! ### Memory -/

theorem test_memory_wf : Memory.wf digits := by decide
theorem test_memory_store : (digits.store 0x1004 0xFF#8).byteAt 0x1004 = 0xFF#8 ∧ Memory.wf (digits.store 0x1004 0xFF#8) := by
  decide


/-! ### Witnesses: states that meet the hypotheses of the obligations -/

/-- A state that holds a built and selected slot is legal. -/
theorem loaded_holding_inv (hw wide : Bool) (w : WellKnown) : (loaded (holding (platform hw wide) w)).Inv := by
  refine ⟨.inr ⟨.ok, false, rfl, by simp⟩, ⟨fun v c h => ?_, fun c h => ?_⟩, .inr ⟨.known w, w.construct hw, ?_, ?_, ?_⟩, (rfl : tblidxStored 0 = 0), ?_⟩
  · have h : (SlotStore.empty.set (.known w) (w.construct hw)).get (.known v) = some c := h
    show c = v.construct hw
    by_cases hv : v = w
    · subst hv
      rw [SlotStore.get_set_same] at h
      exact (Option.some.inj h).symm
    · rw [SlotStore.get_set_other _ _ (by simpa using hv), SlotStore.get_empty] at h
      cases h
  · have h : (SlotStore.empty.set (.known w) (w.construct hw)).get .scratch = some c := h
    rw [SlotStore.get_set_other _ _ (by simp), SlotStore.get_empty] at h
    cases h
  · exact SlotStore.get_set_same _ _ _
  · show selAfter w hw = _
    cases w <;> cases hw <;> decide
  · show wellKnownPoly w = _
    cases w <;> cases hw <;> rfl
  · exact test_memory_wf

/-- A legal state that holds its hardware calculator, and one without the capability. -/
theorem witness_inv_best : (best true true).Inv ∧ (best false true).Inv ∧ zip.Inv :=
  ⟨loaded_holding_inv _ _ _, loaded_holding_inv _ _ _, loaded_holding_inv _ _ _⟩

/-- The reset state is legal, and its step answers a next state (StepKeepsTheInvariant). -/
theorem witness_StepKeepsTheInvariant : zip.Inv ∧ ∃ t, step (zip.withFetchWord 32 3) = .next t :=
  ⟨loaded_holding_inv _ _ _, _, rfl⟩

theorem witness_checksPass : ChecksPass zip := ⟨by decide, by decide, by decide⟩
theorem witness_checksPass_best (hw wide : Bool) : ChecksPass (best hw wide) :=
  ⟨by revert hw wide; decide, by revert hw wide; decide, by revert hw wide; decide⟩
theorem witness_checksPass_top : ChecksPass { zip with addr := 0xFFFFFFF0#32, len := 0x10#32 } :=
  ⟨by decide, by decide, by decide⟩
theorem witness_undisturbed (s : State) (h : s.overlap = []) : Undisturbed s := by
  intro a b hm
  rw [h] at hm
  cases hm

/-- DecodeAndEncodeAreInverse, StepRunsTheDecodedCommand: a word that decodes, written to CMD in both ways, and a table word. -/
theorem witness_StepRunsTheDecodedCommand :
    decode 0x00000003#32 = .ok .hash ∧ CmdWriteNext (withEvent zip (writeEvent 0x00 0x00000003#32)) 0x00000003#32 [] ∧
    CmdWriteNext { withEvent zip (.host { addr := .offset 0, width := 4, op := .writeBack }) with rdata := 0x00000003#32 }
      0x00000003#32 [] ∧
    decodeTableWord 32 0x12 = some .selectCrc32Zip :=
  ⟨by decide, ⟨_, rfl, rfl, .inl rfl⟩, ⟨_, rfl, rfl, .inr ⟨rfl, rfl⟩⟩, by decide⟩

/-- IllegalWordEndsWithErrIllegal: one word for each case, and a CMD write of it. -/
theorem witness_IllegalWordEndsWithErrIllegal :
    0x00000000#32 ∉ legalWords ∧ 0x00000082#32 ∉ legalWords ∧ 0x00000013#32 ∉ legalWords ∧ 0x00000052#32 ∉ legalWords ∧
    CmdWriteNext (withEvent zip (writeEvent 0x00 0x00000052#32)) 0x00000052#32 [] ∧ zip.overlap = [] :=
  ⟨by decide, by decide, by decide, by decide, ⟨_, rfl, rfl, .inl rfl⟩, rfl⟩

theorem witness_CommandStartRaisesBusy : zip.overlap = [] := rfl

/-- A store that overlaps the next command, in the buffer's first byte and then its last. -/
def raced : State :=
  { withEvent zip (writeEvent 0x00 0x00000003#32) with
    overlap := [.store 0x1000#32 0xAA#8, .store 0x1008#32 0xBB#8, .store 0x1009#32 0xCC#8] }

/-- OverlappedStoresLand: an address no store goes to, and a last store. -/
theorem witness_OverlappedStoresLand :
    (∀ c b, Overlap.store c b ∈ raced.overlap → c.toNat ≠ 0x100A) ∧
    raced.overlap = [.store 0x1000#32 0xAA#8, .store 0x1008#32 0xBB#8] ++ .store 0x1009#32 0xCC#8 :: [] ∧
    (∀ d e, Overlap.store d e ∈ ([] : List Overlap) → d ≠ 0x1009#32) := by
  refine ⟨fun c b h => ?_, rfl, fun d e h => by cases h⟩
  simp only [raced, List.mem_cons, Overlap.store.injEq, List.not_mem_nil, or_false] at h
  rcases h with ⟨rfl, _⟩ | ⟨rfl, _⟩ | ⟨rfl, _⟩ <;> decide

/-- StepRefusesExactlyMalformedAccesses: accesses of both kinds. -/
theorem witness_StepRefusesExactlyMalformedAccesses :
    (readEvent 0x3C).accepted zip.base = true ∧ (readEvent 0x40).accepted zip.base = false ∧
    (readEvent 0x02).accepted zip.base = false ∧
    (BusEvent.host { addr := .offset 0, width := 2, op := .read }).accepted zip.base = false := by decide

/-- AccessTargetsFollowTheWindow: the first and the last byte of the window, at several widths; an access of more than the window;
and the last access that ends below it, the first that begins above it, and those that straddle its edges. -/
theorem witness_AccessTargetsFollowTheWindow :
    (0 < 64 ∧ 63 < 64 ∧ 0 < 1) ∧ (0xFF < 0x100 ∧ 0x100 < 0xFF + 2 ∧ 0x100 < 0xFF + 66) ∧
    HostAccess.target 0x100 { addr := .platform 0x13C, width := 4, op := .read } = .register .reserved ∧
    HostAccess.target 0x100 { addr := .platform 0x100, width := 2, op := .read } = .malformed ∧
    HostAccess.target 0x100 { addr := .platform 0x13F, width := 1, op := .read } = .malformed ∧
    HostAccess.target 0x100 { addr := .platform 0x140, width := 4, op := .read } = .elsewhere ∧
    HostAccess.target 0x100 { addr := .platform 0xFC, width := 4, op := .read } = .elsewhere ∧
    HostAccess.target 0x100 { addr := .platform 0xFE, width := 4, op := .read } = .malformed ∧
    HostAccess.target 0x100 { addr := .platform 0x13E, width := 4, op := .read } = .malformed ∧
    HostAccess.target 0x100 { addr := .offset 0x40, width := 4, op := .read } = .malformed := by decide

/-- IdleStepKeepsEverything: an empty inbox; a host access just below the window and one just above; an overlap of each kind that may
be armed; a store at the first and at the last address of buffer memory, in a canonical memory. -/
theorem witness_IdleStepKeepsEverything :
    zip.inbox = [] ∧
    (HostAccess.target zip.base { addr := .platform 0x3FFFFFFC, width := 4, op := .read } = .elsewhere ∧
      HostAccess.target zip.base { addr := .platform 0x40000040, width := 4, op := .read } = .elsewhere) ∧
    ((BusEvent.during (.store 0x1000#32 0xAA#8)).accepted zip.base = true ∧
      (BusEvent.during (.access { addr := .offset 0x3C, width := 4, op := .read })).accepted zip.base = true ∧
      (BusEvent.during (.access { addr := .platform 0x40000040, width := 1, op := .read })).accepted zip.base = true) ∧
    ((withEvent zip (.store 0#32 0xAA#8)).inbox = [.store 0#32 0xAA#8] ∧
      (withEvent zip (.store 0xFFFFFFFF#32 0xAA#8)).inbox = [.store 0xFFFFFFFF#32 0xAA#8] ∧ zip.mem.wf) :=
  ⟨rfl, by decide, by decide, rfl, rfl, test_memory_wf⟩

theorem witness_MuxChoosesByExactValue :
    (0#32) ≠ 0x04C11DB7#32 ∧ (0#32) ≠ 0xEDB88320#32 ∧ (0#32) ≠ 0x82F63B78#32 ∧ (0#32) ≠ 0x1EDC6F41#32 := by decide

/-- GetSelectsThePolynomialsCalculator, SelectSelectsTheNamedCalculator: each case of the slot. -/
theorem witness_Get_Select :
    mux 0#32 = .scratch ∧ mux 0x82F63B78#32 = .known .crc32cBest ∧
    (∃ d, zip.slots.get (.known .crc32Zip) = some d) ∧ zip.slots.get (.known .crc32cBest) = none ∧
    State.Inv { zip with poly := 0x82F63B78#32 } := by
  refine ⟨by decide, by decide, ⟨_, rfl⟩, rfl, ?_⟩
  have h := loaded_holding_inv true true .crc32Zip
  exact ⟨h.status, h.slots, h.selection, h.tblidx, h.memory⟩

/-- HashWritesTheCalculatorsChecksum, HashIsTheReferenceCrcOfSelpoly: a table-backed and a hardware-backed slot. -/
theorem witness_HashWritesTheCalculatorsChecksum :
    (ChecksPass zip ∧ Undisturbed zip ∧ selSlot zip.sel = (SlotId.known .crc32Zip).num ∧
      zip.slots.get (.known .crc32Zip) = some (.table 0xEDB88320#32 (build 0xEDB88320#32)) ∧ zip.Inv) ∧
    (ChecksPass (best true false) ∧ Undisturbed (best true false) ∧
      selSlot (best true false).sel = (SlotId.known .crc32cBest).num ∧
      (best true false).slots.get (.known .crc32cBest) = some (.hardware 0x82F63B78#32) ∧ (best true false).Inv) :=
  ⟨⟨witness_checksPass, witness_undisturbed _ rfl, by decide, rfl, loaded_holding_inv _ _ _⟩,
    witness_checksPass_best _ _, witness_undisturbed _ rfl, by decide, rfl, loaded_holding_inv _ _ _⟩

/-- FailingHashWritesStatusOnly: no selection; a range that wraps by one; an unreadable last byte. -/
theorem witness_FailingHashWritesStatusOnly :
    selValid (platform true true).sel = false ∧
    (selValid zip.sel = true ∧ (0x11#32) ≠ 0#32 ∧ (0xFFFFFFF0#32).toNat + (0x11#32).toNat > 2 ^ 32) ∧
    ((0x100D#32).toNat + (4#32).toNat ≤ 2 ^ 32 ∧
      ∃ j, j < (4#32).toNat ∧ zip.memAdmit ((0x100D#32).toNat + j) = false) :=
  ⟨by decide, by decide, by decide, 3, by decide, by decide⟩

theorem witness_FirstFailingCheckGivesTheCode :
    CmdWriteNext (withEvent zip (writeEvent 0x00 0x00000003#32)) 0x00000003#32 [] := ⟨_, rfl, rfl, .inl rfl⟩

theorem witness_EmptyBufferGivesTheSeed :
    selValid zip.sel = true ∧ ({ zip with len := 0#32 } : State).len = 0 ∧
    ({ zip with len := 0#32 } : State).calculatorAt (selSlot zip.sel) = some (.table 0xEDB88320#32 (build 0xEDB88320#32)) :=
  ⟨by decide, rfl, rfl⟩

/-- CommandsReadExactlyTheFootprint: a register access, a HASH whose checks pass and one whose checks do not. -/
theorem witness_CommandsReadExactlyTheFootprint :
    (HostAccess.target zip.base { addr := .offset 0x1C, width := 4, op := .read } = .register .result ∧
      ∃ t, step (withEvent zip (readEvent 0x1C)) = .next t) ∧
    (ChecksPass zip ∧ ∃ t, exec .hash zip = .next t) ∧
    (¬ ChecksPass (platform true true) ∧ ∃ t, exec .hash (platform true true) = .next t) :=
  ⟨⟨rfl, _, rfl⟩, ⟨witness_checksPass, _, rfl⟩, fun h => absurd h.selected (by decide), _, rfl⟩

/-- RacedHashGivesAFreeValue: stores into the first and the last byte of the buffer; and one just after it, which does not race. -/
theorem witness_RacedHashGivesAFreeValue :
    CmdWriteNext raced 0x00000003#32 [] ∧ ChecksPass raced ∧
    (Overlap.store 0x1000#32 0xAA#8 ∈ raced.overlap ∧ InBuffer raced (0x1000#32).toNat) ∧
    (Overlap.store 0x1008#32 0xBB#8 ∈ raced.overlap ∧ InBuffer raced (0x1008#32).toNat) ∧
    ¬ InBuffer raced (0x1009#32).toNat ∧ Undisturbed { zip with overlap := [.store 0x1009#32 0xCC#8] } := by
  refine ⟨⟨_, rfl, rfl, .inl rfl⟩, ⟨by decide, by decide, by decide⟩, ⟨.head _, ?_⟩, ⟨.tail _ (.head _), ?_⟩, ?_, ?_⟩
  · exact ⟨by decide, by decide⟩
  · exact ⟨by decide, by decide⟩
  · exact fun h => absurd h.2 (by decide)
  · intro a b h
    simp only [List.mem_cons, Overlap.store.injEq, List.not_mem_nil, or_false] at h
    rw [h.1]
    exact fun h => absurd h.2 (by decide)

/-- BytesOutsideTheBufferDoNotMatter: two states that differ in the byte just after the buffer. -/
theorem witness_BytesOutsideTheBufferDoNotMatter :
    (∀ a, InBuffer zip a → (digits.store 0x1009 0xFF#8).byteAt a = zip.mem.byteAt a) ∧ Undisturbed zip ∧
    ∃ t t', exec .hash zip = .next t ∧ exec .hash { zip with mem := digits.store 0x1009 0xFF#8 } = .next t' :=
  ⟨fun a h => Memory.byteAt_store_other _ (fun h' => by
      subst h'
      exact absurd h.2 (by decide)),
    witness_undisturbed _ rfl, _, _, rfl, rfl⟩

/-- SamePolynomialSameResult: slot 2 without the capability, slot 4 with it. -/
theorem witness_SamePolynomialSameResult :
    (loaded (holding (platform false false) .crc32c)).Inv ∧ (best true true).Inv ∧
    ChecksPass (loaded (holding (platform false false) .crc32c)) ∧ ChecksPass (best true true) ∧
    bufferBytes (best true true) = bufferBytes (loaded (holding (platform false false) .crc32c)) ∧
    selSlot (loaded (holding (platform false false) .crc32c)).sel = 2 ∧ selSlot (best true true).sel = 4 ∧
    (best true true).selpoly = (loaded (holding (platform false false) .crc32c)).selpoly :=
  ⟨loaded_holding_inv _ _ _, loaded_holding_inv _ _ _, ⟨by decide, by decide, by decide⟩, witness_checksPass_best _ _, rfl,
    by decide, by decide, rfl⟩

/-- ErringCommandWritesStatusOnly: a HASH that ends with a code, and an illegal word. -/
theorem witness_ErringCommandWritesStatusOnly :
    ((stateOf (exec .hash (platform true true))).map (fun t => statusErr t.status) = some 2#4) ∧
    (CmdWriteNext (withEvent zip (writeEvent 0x00 0x00000000#32)) 0x00000000#32 [] ∧
      (stateOf (step (withEvent zip (writeEvent 0x00 0x00000000#32)))).map (fun t => statusErr t.status) = some 1#4) :=
  ⟨by decide, ⟨_, rfl, rfl, .inl rfl⟩, by decide⟩

/-- ErrSeenIsSticky: a state with ERRSEEN set, for each clause. -/
theorem witness_ErrSeenIsSticky :
    statusErrSeen ({ zip with status := 0x122#32 } : State).status = true ∧
    (∃ t, step (withEvent { zip with status := 0x122#32 } (readEvent 0x04)) = .next t) ∧
    (BusEvent.isReset .reset = true ∧ ∃ t, step (withEvent { zip with status := 0x122#32 } .reset) = .next t) ∧
    (∃ t, exec .selectCrc32Zip { zip with status := 0x122#32 } = .next t) ∧
    (ChecksPass { zip with status := 0x122#32 } ∧ ∃ t, exec .hash { zip with status := 0x122#32 } = .next t) :=
  ⟨by decide, ⟨_, rfl⟩, ⟨rfl, _, rfl⟩, ⟨_, rfl⟩, ⟨by decide, by decide, by decide⟩, _, rfl⟩

/-- StepOneShiftsAndReduces: each case of bit 0 and of bit 31. -/
theorem witness_StepOneShiftsAndReduces :
    (3#32).getLsbD 0 = true ∧ (2#32).getLsbD 0 = false ∧ (0xEDB88320#32).getLsbD 31 = true := by decide

/-- BuildFillsEveryEntry, SliceRecurrenceHolds: the first and the last pair of slices. -/
theorem witness_SliceRecurrenceHolds : (1 : Fin 16).val = (0 : Fin 16).val + 1 ∧ (15 : Fin 16).val = (14 : Fin 16).val + 1 := by
  decide

/-- A legal state without the capability where slots 2 and 4 are both built (SamePolynomialSameTable). -/
theorem witness_SamePolynomialSameTable :
    let s := { holding (platform false false) .crc32c with
      slots := (SlotStore.empty.set (.known .crc32c) (tableCalculator polyCrc32c)).set (.known .crc32cBest) (tableCalculator polyCrc32c) }
    s.Inv ∧ s.slots.get (.known .crc32c) = some (.table 0x82F63B78#32 (build 0x82F63B78#32)) ∧
      s.slots.get (.known .crc32cBest) = some (.table 0x82F63B78#32 (build 0x82F63B78#32)) := by
  refine ⟨⟨.inr ⟨.ok, false, rfl, by simp⟩, ⟨fun v c h => ?_, fun c h => ?_⟩, .inr ⟨.known .crc32c, tableCalculator polyCrc32c, rfl, by decide, rfl⟩,
    rfl, by decide⟩, rfl, rfl⟩
  · cases v <;> first | exact (Option.some.inj h).symm | cases h
  · cases h

/-- HardwareEqualsSliceBy16: functions that meet the hypotheses of the uniqueness clauses exist. -/
theorem witness_HardwareEqualsSliceBy16 :
    (∃ f : Word → Byte → Word, ∀ seed x, ~~~(f (~~~seed) x) = ~~~(foldBytes 0x82F63B78#32 (~~~seed) [x])) ∧
    (∃ f : Word → BitVec 32 → Word, ∀ seed b0 b1 b2 b3,
      ~~~(f (~~~seed) (chunk4 b0 b1 b2 b3)) = ~~~(foldBytes 0x82F63B78#32 (~~~seed) [b0, b1, b2, b3])) ∧
    (∃ f : Word → BitVec 64 → Word, ∀ seed b0 b1 b2 b3 b4 b5 b6 b7,
      ~~~(f (~~~seed) (chunk8 b0 b1 b2 b3 b4 b5 b6 b7)) =
        ~~~(foldBytes 0x82F63B78#32 (~~~seed) [b0, b1, b2, b3, b4, b5, b6, b7])) := by
  have h4 : ∀ crc b0 b1 b2 b3, crc32cU32 crc (chunk4 b0 b1 b2 b3) = foldBytes 0x82F63B78#32 crc [b0, b1, b2, b3] := by
    intro crc b0 b1 b2 b3
    obtain ⟨e0, e1, e2, e3⟩ := chunk4_bytes b0 b1 b2 b3
    rw [crc32cU32, e0, e1, e2, e3]
    rfl
  refine ⟨⟨crc32cU8, fun _ _ => rfl⟩, ⟨crc32cU32, fun seed b0 b1 b2 b3 => by rw [h4]⟩, crc32cU64, ?_⟩
  intro seed b0 b1 b2 b3 b4 b5 b6 b7
  obtain ⟨e0, e1⟩ := chunk8_halves b0 b1 b2 b3 b4 b5 b6 b7
  rw [crc32cU64, e0, e1, h4, h4]
  rfl

/-- HardwareSlotNeedsCapability, SelpolyIsTheSelectedPolynomial, ReservedBitsReadZero: both kinds of slot, and no selection. -/
theorem witness_HardwareSlotNeedsCapability :
    ((best true true).Inv ∧ (best true true).slots.get (.known .crc32cBest) = some (.hardware 0x82F63B78#32) ∧
      selHw (best true true).sel = true ∧ selValid (best true true).sel = true) ∧
    (State.Inv (platform true true) ∧ selValid (platform true true).sel = false) := by
  refine ⟨⟨loaded_holding_inv _ _ _, rfl, by decide, by decide⟩, ⟨.inl rfl, ⟨fun w c h => ?_, fun c h => ?_⟩, .inl ⟨rfl, rfl⟩, rfl, ?_⟩, by decide⟩
  · cases w <;> cases h
  · cases h
  · decide

/-- ValidSlotsAreImmutable: a step that is no reset from a state with a valid slot; a step that replaces slot 5; a HASH. -/
theorem witness_ValidSlotsAreImmutable :
    ((writeEvent 0x00 0x00000012#32).isReset = false ∧ (∃ t, step (withEvent zip (writeEvent 0x00 0x00000012#32)) = .next t) ∧
      ∃ c, zip.slots.get (.known .crc32Zip) = some c) ∧
    (∃ t, step (withEvent zip (writeEvent 0x00 0x00000001#32)) = .next t ∧ t.slots.get .scratch ≠ zip.slots.get .scratch) ∧
    ∃ t, exec .hash zip = .next t :=
  ⟨⟨rfl, ⟨_, rfl⟩, _, rfl⟩, ⟨_, rfl, by intro h; cases h⟩, _, rfl⟩

/-- SlotsDependOnTheRequestsNotTheirOrder: a SELECT and two unrecognised GETs, from a legal state; and lists that end in a SELECT, in
a GET of a well-known polynomial, in no request. -/
theorem witness_SlotsDependOnTheRequestsNotTheirOrder :
    zip.Inv ∧ (∃ t, AfterRequests [.select .crc32Zip, .get 0#32, .get 1#32] zip t) ∧
    zip.slots.get (.known .crc32Zip) ≠ none ∧ zip.slots.get (.known .crc32c) = none ∧
    (∀ r ∈ [Request.select .crc32Zip, .get 0#32, .get 1#32], r.slot ≠ .known .crc32c) ∧
    ([Request.select .crc32Zip, .get 0#32, .get 1#32].filterMap Request.unrecognised).getLast? = some 1#32 ∧
    ([Request.select .crc32Zip].filterMap Request.unrecognised).getLast? = none ∧
    [Request.select .crc32Zip, .get 0#32, .get 1#32].getLast? = some (.get 1#32) ∧
    ((∃ t, AfterRequests [.get 0#32, .select .crc32c] zip t) ∧
      [Request.get 0#32, .select .crc32c].getLast? = some (.select .crc32c)) ∧
    ((∃ t, AfterRequests [.get 0x82F63B78#32] zip t) ∧ (Request.get 0x82F63B78#32).slot = .known .crc32cBest) ∧
    AfterRequests [] zip zip :=
  ⟨loaded_holding_inv _ _ _, ⟨_, _, rfl, _, rfl, _, rfl, rfl⟩, (fun h => by cases h), rfl, by decide, by decide, by decide, rfl,
    ⟨⟨_, _, rfl, _, rfl, rfl⟩, rfl⟩, ⟨⟨_, _, rfl, rfl⟩, by decide⟩, rfl⟩

/-- ResetEstablishesResetValues, AbandonedCommandLeavesNoTrace, StrapsMatterAtResetOnly: the events that reset, and the others. -/
theorem witness_Reset :
    (BusEvent.isReset .reset = true ∧ BusEvent.isReset (.cmdCut 3#32) = true) ∧
    ((withEvent zip (.cmdCut 3#32)).inbox = [.cmdCut 3#32] ∧ zip.overlap = [] ∧
      ∃ t, step (withEvent zip (.cmdCut 3#32)) = .next t) ∧
    (BusEvent.isReset (.straps false false) = false ∧ (withEvent zip (.straps false false)).inbox = [.straps false false] ∧
      ∃ t, step (withEvent zip (.straps false false)) = .next t) :=
  ⟨⟨rfl, rfl⟩, ⟨rfl, rfl, _, rfl⟩, rfl, rfl, _, rfl⟩

/-- OperandRegistersHoldTheHostsWrite, TblidxStoresFifteenBits: a write of each register, and a command that completes. -/
theorem witness_OperandRegistersHoldTheHostsWrite :
    (withEvent zip (writeEvent HostReg.poly.offset 1#32)).inbox = [writeEvent 0x0C 1#32] ∧
    (withEvent zip (writeEvent HostReg.len.offset 1#32)).inbox = [writeEvent 0x18 1#32] ∧
    (withEvent zip (writeEvent 0x28 0xFFFFFFFF#32)).inbox = [writeEvent 0x28 0xFFFFFFFF#32] ∧ ∃ t, exec .get zip = .next t :=
  ⟨rfl, rfl, rfl, _, rfl⟩

/-- TbldataReadsTheNamedEntry: a valid table slot, an invalid slot, a hardware slot, and the ids 6 and 7. -/
theorem witness_TbldataReadsTheNamedEntry :
    (tblSrc 0x1001#32 = (SlotId.known .crc32Zip).num ∧
      zip.slots.get (.known .crc32Zip) = some (.table 0xEDB88320#32 (build 0xEDB88320#32))) ∧
    (tblSrc 0x5000#32 = SlotId.scratch.num ∧ zip.slots.get .scratch = none) ∧
    (tblSrc 0x4000#32 = (SlotId.known .crc32cBest).num ∧
      (best true true).slots.get (.known .crc32cBest) = some (.hardware 0x82F63B78#32)) ∧
    6 ≤ (tblSrc 0x6000#32).toNat ∧ 6 ≤ (tblSrc 0x7FFF#32).toNat ∧
    (withEvent zip (readEvent 0x2C)).inbox = [readEvent 0x2C] ∧ (withEvent zip (writeEvent 0x2C 1#32)).inbox = [writeEvent 0x2C 1#32] :=
  ⟨⟨by decide, rfl⟩, ⟨by decide, rfl⟩, ⟨by decide, rfl⟩, by decide, by decide, rfl, rfl⟩

/-- CapShowsTheLatchedCapability, ReadOnlyRegistersIgnoreWrites, HostReadReturnsTheRegister: events of the kinds they speak of. -/
theorem witness_HostAccesses :
    (withEvent zip (writeEvent 0x08 3#32)).inbox = [writeEvent 0x08 3#32] ∧
    (∃ t, step (withEvent zip (writeEvent 0x08 3#32)) = .next t) ∧
    (0x3C ∈ [0x04, 0x08, 0x1C, 0x20, 0x24, 0x2C, 0x30, 0x34, 0x38, 0x3C] ∧
      (withEvent zip (writeEvent 0x3C 3#32)).inbox = [writeEvent 0x3C 3#32]) ∧
    (withEvent zip (readEvent 0x20)).inbox = [readEvent 0x20] :=
  ⟨rfl, ⟨_, rfl⟩, ⟨by decide, rfl⟩, rfl⟩

/-- ResultIsWrittenBySuccessfulHashOnly: a step that changes RESULT. -/
theorem witness_ResultIsWrittenBySuccessfulHashOnly :
    (stateOf (step (withEvent zip (writeEvent 0x00 0x00000003#32)))).map (fun t => decide (t.result ≠ zip.result)) = some true := by
  decide +kernel

/-- AccessWhileBusyIsAnsweredAsBefore: a read of RESULT, and a write of POLY, while HASH executes. -/
theorem witness_AccessWhileBusyIsAnsweredAsBefore :
    (let s := { withEvent zip (writeEvent 0x00 0x00000003#32) with
        overlap := [.access { addr := .offset 0x1C, width := 4, op := .read }] }
     CmdWriteNext s 0x00000003#32 [] ∧ HostReg.ofOffset 0x1C = some .result ∧ ∃ t, step s = .next t) ∧
    (let s := { withEvent zip (writeEvent 0x00 0x00000003#32) with
        overlap := [.access { addr := .offset 0x0C, width := 4, op := .write 1#32 }] }
     CmdWriteNext s 0x00000003#32 [] ∧ HostReg.ofOffset 0x0C = some .poly ∧ ∃ t, step s = .next t) :=
  ⟨⟨⟨_, rfl, rfl, .inl rfl⟩, rfl, _, rfl⟩, ⟨_, rfl, rfl, .inl rfl⟩, rfl, _, rfl⟩

/-- What is on the bus makes no state illegal. -/
theorem inv_inbox {s : State} (h : s.Inv) (q : List BusEvent) : State.Inv { s with inbox := q } :=
  ⟨h.status, h.slots, h.selection, h.tblidx, h.memory⟩

/-- RegisterWriteIsSeenByTheNextCommand: a legal state with a write of POLY and a GET to come; the same with a write of SEED, ADDR or
LEN and a HASH that passes its checks with the new value; and a write of TBLIDX with a read of TBLDATA to come, for a slot that holds
a table, for one that holds none, for the hardware calculator and for id 7. -/
theorem witness_RegisterWriteIsSeenByTheNextCommand :
    (State.Inv { zip with inbox := [writeEvent 0x0C 5#32, writeEvent 0x00 0x00000001#32] } ∧
      State.Inv { zip with inbox := [writeEvent 0x10 7#32, writeEvent 0x00 0x00000003#32] }) ∧
    (ChecksPass { zip with seed := 7#32 } ∧ Undisturbed { zip with seed := 7#32 }) ∧
    (ChecksPass { zip with addr := 0x1007#32 } ∧ Undisturbed { zip with addr := 0x1007#32 }) ∧
    (ChecksPass { zip with len := 16#32 } ∧ Undisturbed { zip with len := 16#32 }) ∧
    ((0x1FFF#32).extractLsb' 12 3 = (SlotId.known .crc32Zip).num ∧
      zip.slots.get (.known .crc32Zip) = some (.table 0xEDB88320#32 (build 0xEDB88320#32))) ∧
    (∀ k p T, (0x5000#32).extractLsb' 12 3 = k.num → zip.slots.get k ≠ some (.table p T)) ∧
    (∀ k p T, (0x4000#32).extractLsb' 12 3 = k.num → (best true true).slots.get k ≠ some (.table p T)) ∧
    (∀ k p T, (0x7000#32).extractLsb' 12 3 = k.num → zip.slots.get k ≠ some (.table p T)) := by
  have h := loaded_holding_inv true true .crc32Zip
  refine ⟨⟨inv_inbox h _, inv_inbox h _⟩, ⟨⟨by decide, by decide, by decide⟩, witness_undisturbed _ rfl⟩,
    ⟨⟨by decide, by decide, by decide⟩, witness_undisturbed _ rfl⟩, ⟨⟨by decide, by decide, by decide⟩, witness_undisturbed _ rfl⟩,
    ⟨by decide, rfl⟩, fun k p T hk hs => ?_, fun k p T hk hs => ?_, fun k p T hk hs => ?_⟩ <;>
    rcases k with (_ | _ | _ | _ | _) | _ <;> first | exact absurd hk (by decide) | cases hs

/-- PseudoInstructionsDoWhatTheyStandFor: each line to come, and the slot of a `tbl` that holds a table and of one that holds none. -/
theorem witness_PseudoInstructionsDoWhatTheyStandFor :
    (zip.withProgram [.get 5#32]).inbox = (HostLine.get 5#32).expand ++ [] ∧
    (zip.withProgram [.hash 0x1000#32 5#32 0#32]).inbox = (HostLine.hash 0x1000#32 5#32 0#32).expand ++ [] ∧
    (zip.withProgram [.hashNext 0x1005#32 4#32]).inbox = (HostLine.hashNext 0x1005#32 4#32).expand ++ [] ∧
    ((zip.withProgram [.tbl 1 15 0xFF]).inbox = (HostLine.tbl 1 15 0xFF).expand ++ [] ∧ (1#3) = SlotId.num (.known .crc32Zip) ∧
      zip.slots.get (.known .crc32Zip) = some (.table 0xEDB88320#32 (build 0xEDB88320#32))) ∧
    (∀ j p T, (7#3) = SlotId.num j → zip.slots.get j ≠ some (.table p T)) := by
  refine ⟨rfl, rfl, rfl, ⟨rfl, by decide, rfl⟩, fun k p T hk hs => ?_⟩
  rcases k with (_ | _ | _ | _ | _) | _ <;> exact absurd hk (by decide)

end Sys2Proof.Tests
end

section
/-! SUPPORT. STATUS, SEL, CAP and TBLIDX as words: what COMPLETE and SELECT_SLOT write, and the fields of what they wrote
(R23, R24, R30, R32, R166, R171). -/
namespace Sys2Proof.Machine

/-! ### STATUS -/

/-- COMPLETE overwrites every bit that the start of a command changed. -/
@[simp] theorem statusComplete_statusBegin (code : ErrCode) (st : Word) :
    statusComplete code (statusBegin st) = statusComplete code st := by
  have h : statusBegin st &&& ~~~0xF3#32 = st &&& ~~~0xF3#32 := by
    simp [statusBegin, BitVec.and_or_distrib_right, BitVec.and_assoc]
  rw [statusComplete, h, statusComplete]

/-- Completing twice with the same code is completing once. -/
@[simp] theorem statusComplete_idem (code : ErrCode) (st : Word) :
    statusComplete code (statusComplete code st) = statusComplete code st := by
  cases code <;>
    simp [statusComplete, ErrCode.num, BitVec.and_or_distrib_right, BitVec.and_assoc, BitVec.or_assoc]

/-- COMPLETE writes the fields of STATUS that R171 lists and no other bit. -/
theorem completed_statusComplete (code : ErrCode) (st : Word) : Completed code st (statusComplete code st) where
  busy := by cases code <;> simp [statusBusy, statusComplete, ErrCode.num]
  done := by cases code <;> simp [statusDone, statusComplete, ErrCode.num]
  err := by
    cases code <;>
      simp [statusErr, statusComplete, ErrCode.num, errNumber, BitVec.extractLsb'_or, BitVec.extractLsb'_and]
  seen := by cases code <;> simp [statusErrSeen, statusComplete, ErrCode.num]
  other := by
    cases code <;> simp [statusComplete, ErrCode.num, BitVec.and_or_distrib_right, BitVec.and_assoc]

theorem statusComplete_zero (code : ErrCode) : statusComplete code 0 = statusWord code (decide (code ≠ .ok)) := by
  cases code <;> rfl

theorem statusComplete_statusWord (code before : ErrCode) (seen : Bool) :
    statusComplete code (statusWord before seen) = statusWord code (seen || decide (code ≠ .ok)) := by
  cases code <;> cases before <;> cases seen <;> rfl

/-- A command that starts from a legal STATUS completes with a legal one. -/
theorem LegalStatus.complete {st : Word} (h : LegalStatus st) (code : ErrCode) :
    LegalStatus (statusComplete code st) := by
  obtain rfl | ⟨before, seen, rfl, -⟩ := h
  · exact .inr ⟨code, _, statusComplete_zero code, by simp⟩
  · exact .inr ⟨code, _, statusComplete_statusWord code before seen, by simp +contextual⟩

/-- What a legal STATUS can show: bits 0, 2, 3 and 9 to 31 are 0, and ERR is a code of R201. -/
theorem LegalStatus.fields {st : Word} (h : LegalStatus st) :
    st &&& 0xFFFFFE0D#32 = 0 ∧ (statusErr st).toNat ≤ 4 := by
  obtain rfl | ⟨code, seen, rfl, -⟩ := h
  · decide
  · cases code <;> cases seen <;> decide

/-! ### SEL -/

@[simp] theorem selValid_selWord (n : BitVec 3) (hw : Bool) : selValid (selWord n hw) = true := by
  cases hw <;> simp [selValid, selWord]

@[simp] theorem selHw_selWord (n : BitVec 3) (hw : Bool) : selHw (selWord n hw) = hw := by
  cases hw <;> simp [selHw, selWord]

@[simp] theorem selSlot_selWord (n : BitVec 3) (hw : Bool) : selSlot (selWord n hw) = n := by
  revert n hw
  decide

theorem selWord_reserved (n : BitVec 3) (hw : Bool) : selWord n hw &&& 0xFFFFFF8C#32 = 0 := by
  revert n hw
  decide

/-! ### CAP and TBLIDX -/

theorem capWord_fields (capHw capWide : Bool) :
    (capWord capHw capWide).getLsbD 0 = capHw ∧ (capWord capHw capWide).getLsbD 1 = (capHw && capWide) ∧
      (capWord capHw capWide).extractLsb' 2 30 = 0 ∧ capWord capHw capWide &&& 0xFFFFFFFC#32 = 0 := by
  cases capHw <;> cases capWide <;> decide

theorem tblidxStored_eq_setWidth (v : Word) : tblidxStored v = (v.extractLsb' 0 15).setWidth 32 := by
  have h : (0x7FFF#32) = (BitVec.allOnes 15).setWidth 32 := by decide
  rw [tblidxStored, h]
  ext i hi
  simp [-BitVec.reduceSetWidth, -BitVec.reduceAllOnes, hi, Bool.and_comm]

@[simp] theorem tblidxStored_idem (v : Word) : tblidxStored (tblidxStored v) = tblidxStored v := by
  simp [tblidxStored, BitVec.and_assoc]

theorem tblidxStored_reserved (v : Word) : tblidxStored v &&& 0xFFFF8000#32 = 0 := by
  simp [tblidxStored, BitVec.and_assoc]

end Sys2Proof.Machine
end

section
/-! SUPPORT. The decoder inverted (R70, R72, R74), and the registers by window offset (R21, R35). -/
namespace Sys2Proof

/-- Putting the fields of a word together gives the word back. -/
@[simp] theorem CommandWord.toWord_ofWord (w : Word) : (CommandWord.ofWord w).toWord = w := by
  ext i hi
  by_cases h4 : i < 4
  · have h7 : i < 7 := by omega
    simp [ofWord, toWord, h4, h7, hi]
  · by_cases h7 : i < 7
    · have hslot : i - 4 < 3 ∧ 4 + (i - 4) = i := by omega
      simp [ofWord, toWord, h4, h7, hi, hslot]
    · have hrsv : ¬ i - 4 < 3 ∧ i - 7 < 25 ∧ 7 + (i - 7) = i := by omega
      simp [ofWord, toWord, h4, h7, hi, hrsv]

theorem encodeFields_of_selectOfSlot {n : BitVec 3} {i : Instr} (h : selectOfSlot n = .ok i) :
    encodeFields i = { op := 2, slot := n, rsv := 0 } := by
  unfold selectOfSlot at h
  split at h <;> rename_i hn <;> cases h <;>
    exact congrArg (CommandWord.mk 2 · 0) (BitVec.eq_of_toNat_eq hn.symm)

/-- The fields that decode to a command are those of its row. -/
theorem encodeFields_of_decodeFields {c : CommandWord} {i : Instr} (h : decodeFields c = .ok i) :
    encodeFields i = c := by
  obtain ⟨op, slot, rsv⟩ := c
  simp only [decodeFields] at h
  split at h
  next hop =>
    obtain rfl : op = 1 := BitVec.eq_of_toNat_eq hop
    split_ifs at h with hrsv hslot
    cases h
    rw [not_not.1 hrsv, not_not.1 hslot, encodeFields]
  next hop =>
    obtain rfl : op = 2 := BitVec.eq_of_toNat_eq hop
    split_ifs at h with hrsv
    rw [not_not.1 hrsv, encodeFields_of_selectOfSlot h]
  next hop =>
    obtain rfl : op = 3 := BitVec.eq_of_toNat_eq hop
    split_ifs at h with hrsv hslot
    cases h
    rw [not_not.1 hrsv, not_not.1 hslot, encodeFields]
  next => cases h

/-- A word that decodes to a command is that command's word. -/
theorem encode_of_decode {w : Word} {i : Instr} (h : decode w = .ok i) : encode i = w := by
  rw [encode, encodeFields_of_decodeFields h, CommandWord.toWord_ofWord]

theorem decode_of_decodeTableWord {nbits w : Nat} {i : Instr} (h : decodeTableWord nbits w = some i) :
    decode (wordOfTable nbits w) = .ok i := by
  rw [decodeTableWord] at h
  split at h
  · cases h
    assumption
  · cases h

end Sys2Proof

namespace Sys2Proof.Machine

/-- The offsets that reach a register are the multiples of 4 up to 0x3C (R21). -/
theorem HostReg.ofOffset_isSome_iff (o : Nat) : (∃ r, HostReg.ofOffset o = some r) ↔ o % 4 = 0 ∧ o ≤ 0x3C := by
  by_cases h : o % 4 = 0
  · by_cases hle : o ≤ 0x3C
    · have hq : o / 4 ≤ 15 := by omega
      simp only [HostReg.ofOffset, h, hle]
      interval_cases o / 4 <;> simp
    · obtain ⟨q, hq⟩ : ∃ q, o / 4 = q + 16 := ⟨o / 4 - 16, by omega⟩
      simp [HostReg.ofOffset, hle, hq]
  · simp [HostReg.ofOffset, h]

theorem targetOfOffset_register_iff (width o : Nat) :
    (∃ r, targetOfOffset width o = .register r) ↔ width = 4 ∧ o % 4 = 0 ∧ o ≤ 0x3C := by
  rw [← HostReg.ofOffset_isSome_iff, targetOfOffset]
  by_cases hw : width = 4
  · cases HostReg.ofOffset o <;> simp [hw]
  · simp [hw]

theorem targetOfOffset_malformed {width o : Nat} (h : ¬ (width = 4 ∧ o % 4 = 0 ∧ o ≤ 0x3C)) :
    targetOfOffset width o = .malformed := by
  rw [← targetOfOffset_register_iff] at h
  rw [targetOfOffset] at h ⊢
  by_cases hw : width = 4
  · cases ho : HostReg.ofOffset o <;> simp_all
  · simp [hw]

end Sys2Proof.Machine
end

section
/-! SUPPORT. What a command can do, said once: a GET or SELECT serves one slot (R163 to R168), and HASH writes STATUS and, where it
completes with 0, RESULT (R169, R206). -/
namespace Sys2Proof.Machine

/-! ### GET and SELECT -/

/-- The calculator that slot `k` holds after a request: the one it has or a fresh one, and in slot 5 always a fresh one (R163,
R165). -/
def State.calculatorFor (s : State) : SlotId → Calculator
  | .known w => s.builtCalculator w
  | .scratch => tableCalculator s.poly

/-- The one effect that GET and the SELECTs share: slot `k` holds its calculator, is selected, and the command completes. -/
def State.request (s : State) (k : SlotId) : State :=
  ((s.setSlot k (s.calculatorFor k)).selectSlot k (s.calculatorFor k)).complete .ok

theorem selectKnown_eq_request (s : State) (w : WellKnown) : s.selectKnown w = s.request (.known w) := by
  rw [State.selectKnown, ensureBuilt_eq]
  rfl

theorem getCalculator_eq_request (s : State) : s.getCalculator = s.request (mux s.poly) := by
  cases h : mux s.poly with
  | known w => rw [getCalculator_known h, selectKnown_eq_request]
  | scratch => rw [getCalculator_scratch h]; rfl

theorem exec_get_eq_request (s : State) : exec .get s = .next (s.request (mux s.poly)) := by
  rw [exec_get, getCalculator_eq_request]

theorem exec_select_eq_request (s : State) (w : WellKnown) :
    exec (selectInstr w) s = .next (s.request (.known w)) := by
  rw [← selectKnown_eq_request]
  cases w <;> rfl

/-- A request changes SEL, SELPOLY, one slot and STATUS, and nothing else. -/
theorem request_eq (s : State) (k : SlotId) :
    s.request k =
      { s with
        slots := s.slots.set k (s.calculatorFor k)
        sel := selWord k.num (s.calculatorFor k).isHardware
        selpoly := (s.calculatorFor k).poly
        status := statusComplete .ok s.status } := rfl

/-- A valid well-known slot survives every request. -/
theorem request_get_known_of_some {s : State} {w : WellKnown} {c : Calculator} (k : SlotId)
    (h : s.slots.get (.known w) = some c) : (s.request k).slots.get (.known w) = some c := by
  rw [request_eq]
  by_cases hk : .known w = k
  · subst hk
    rw [SlotStore.get_set_same, State.calculatorFor, builtCalculator_of_some h]
  · rw [SlotStore.get_set_other _ _ hk, h]

/-- A request of another slot leaves a slot as it was. -/
theorem request_get_other {s : State} {j k : SlotId} (h : j ≠ k) : (s.request k).slots.get j = s.slots.get j :=
  SlotStore.get_set_other _ _ h

/-! ### HASH -/

/-- HASH changes STATUS, RESULT, the read log and the counter of free values, and nothing else. -/
theorem hashCommand_eq (s : State) :
    s.hashCommand =
      { s with
        status := s.hashCommand.status, result := s.hashCommand.result
        reads := s.hashCommand.reads, draws := s.hashCommand.draws } := by
  obtain ⟨-, h⟩ | ⟨-, -, h⟩ | ⟨-, -, -, h⟩ | ⟨-, -, -, h⟩ := hashCommand_cases s
  · rw [h]; rfl
  · rw [h]; rfl
  · rw [h]; rfl
  · obtain ⟨c, -, -, hb⟩ | ⟨-, hb⟩ := hashBuffer_cases s <;> rw [h, hb]

@[simp] theorem hashCommand_poly (s : State) : s.hashCommand.poly = s.poly := by rw [hashCommand_eq]
@[simp] theorem hashCommand_seed (s : State) : s.hashCommand.seed = s.seed := by rw [hashCommand_eq]
@[simp] theorem hashCommand_addr (s : State) : s.hashCommand.addr = s.addr := by rw [hashCommand_eq]
@[simp] theorem hashCommand_len (s : State) : s.hashCommand.len = s.len := by rw [hashCommand_eq]
@[simp] theorem hashCommand_sel (s : State) : s.hashCommand.sel = s.sel := by rw [hashCommand_eq]
@[simp] theorem hashCommand_selpoly (s : State) : s.hashCommand.selpoly = s.selpoly := by rw [hashCommand_eq]
@[simp] theorem hashCommand_tblidx (s : State) : s.hashCommand.tblidx = s.tblidx := by rw [hashCommand_eq]
@[simp] theorem hashCommand_slots (s : State) : s.hashCommand.slots = s.slots := by rw [hashCommand_eq]
@[simp] theorem hashCommand_capHw (s : State) : s.hashCommand.capHw = s.capHw := by rw [hashCommand_eq]
@[simp] theorem hashCommand_capWide (s : State) : s.hashCommand.capWide = s.capWide := by rw [hashCommand_eq]
@[simp] theorem hashCommand_mem (s : State) : s.hashCommand.mem = s.mem := by rw [hashCommand_eq]
@[simp] theorem hashCommand_inbox (s : State) : s.hashCommand.inbox = s.inbox := by rw [hashCommand_eq]
@[simp] theorem hashCommand_overlap (s : State) : s.hashCommand.overlap = s.overlap := by rw [hashCommand_eq]
@[simp] theorem hashCommand_rdata (s : State) : s.hashCommand.rdata = s.rdata := by rw [hashCommand_eq]

/-- HASH completes with one code, and writes RESULT only where the code is 0. -/
theorem hashCommand_completes (s : State) :
    ∃ code, s.hashCommand.status = statusComplete code s.status ∧ (code ≠ .ok → s.hashCommand.result = s.result) := by
  obtain ⟨-, h⟩ | ⟨-, -, h⟩ | ⟨-, -, -, h⟩ | ⟨-, -, -, h⟩ := hashCommand_cases s
  · exact ⟨.noSel, by simp [h]⟩
  · exact ⟨.range, by simp [h]⟩
  · exact ⟨.bus, by simp [h]⟩
  · obtain ⟨c, -, -, hb⟩ | ⟨-, hb⟩ := hashBuffer_cases s <;> exact ⟨.ok, by simp [h, hb]⟩

/-! ### Every command -/

/-- Every command answers a next state. -/
theorem exec_total (i : Instr) (s : State) : ∃ t, exec i s = .next t := by
  cases i <;> exact ⟨_, rfl⟩

/-- Everything a command can do: GET and SELECT serve a slot, and HASH hashes. -/
theorem exec_cases {i : Instr} {s t : State} (h : exec i s = .next t) :
    (∃ k, ((i = .get ∧ k = mux s.poly) ∨ ∃ w, i = selectInstr w ∧ k = .known w) ∧ t = s.request k) ∨
    (i = .hash ∧ t = s.hashCommand) := by
  have select (w : WellKnown) (h : exec (selectInstr w) s = .next t) : t = s.request (.known w) := by
    simpa using h.symm.trans (exec_select_eq_request s w)
  cases i with
  | get => exact .inl ⟨_, .inl ⟨rfl, rfl⟩, by simpa using h.symm.trans (exec_get_eq_request s)⟩
  | selectCrc32Normal => exact .inl ⟨_, .inr ⟨.crc32Normal, rfl, rfl⟩, select _ h⟩
  | selectCrc32Zip => exact .inl ⟨_, .inr ⟨.crc32Zip, rfl, rfl⟩, select _ h⟩
  | selectCrc32c => exact .inl ⟨_, .inr ⟨.crc32c, rfl, rfl⟩, select _ h⟩
  | selectCrc32cNormal => exact .inl ⟨_, .inr ⟨.crc32cNormal, rfl, rfl⟩, select _ h⟩
  | selectCrc32cBest => exact .inl ⟨_, .inr ⟨.crc32cBest, rfl, rfl⟩, select _ h⟩
  | hash => exact .inr ⟨rfl, by simpa using h.symm⟩

/-- No command writes a register the host writes, a capability bit or memory. -/
theorem exec_keeps_operands {i : Instr} {s t : State} (h : exec i s = .next t) :
    t.poly = s.poly ∧ t.seed = s.seed ∧ t.addr = s.addr ∧ t.len = s.len ∧ t.tblidx = s.tblidx ∧
      t.capHw = s.capHw ∧ t.capWide = s.capWide ∧ t.mem = s.mem ∧ t.overlap = s.overlap := by
  obtain ⟨k, -, rfl⟩ | ⟨-, rfl⟩ := exec_cases h
  · simp [request_eq]
  · simp

end Sys2Proof.Machine
end

section
/-! SUPPORT. What a step can do to the block, said once: a reset, a command, or neither (R12, R170, R230). -/
namespace Sys2Proof.Machine

/-! ### Host accesses -/

/-- A step whose event is a CMD write of `w` is ON_CMD_WRITE(w) (R22). -/
theorem step_of_cmdWriteNext {s : State} {w : Word} {rest : List BusEvent} (h : CmdWriteNext s w rest) :
    step s = State.onCmdWrite { s with inbox := rest } w := by
  obtain ⟨acc, hq, htarget, hop | ⟨hop, hw⟩⟩ := h
  · simp [step, hq, State.runEvent, State.hostAccess, htarget, hop, State.hostWrite]
  · simp [step, hq, State.runEvent, State.hostAccess, htarget, hop, State.hostWrite, hw]

/-- A host write at the offset of a register other than CMD. -/
theorem step_of_writeEvent {s : State} {off : Nat} {r : HostReg} {v : Word} {rest : List BusEvent}
    (hq : s.inbox = writeEvent off v :: rest) (hr : HostReg.ofOffset off = some r) (hcmd : r ≠ .cmd) :
    step s = .next (State.writeReg { s with inbox := rest } r v) := by
  simp [step, hq, writeEvent, State.runEvent, State.hostAccess, HostAccess.target, targetOfOffset, hr,
    State.hostWrite, hcmd]

/-- A host read at the offset of a register. -/
theorem step_of_readEvent {s : State} {off : Nat} {r : HostReg} {rest : List BusEvent}
    (hq : s.inbox = readEvent off :: rest) (hr : HostReg.ofOffset off = some r) :
    step s = .next { s with inbox := rest, rdata := s.readReg r } := by
  have hread : State.readReg { s with inbox := rest } r = s.readReg r := by cases r <;> rfl
  simp [step, hq, readEvent, State.runEvent, State.hostAccess, HostAccess.target, targetOfOffset, hr, hread]

/-! ### Steps that run no command and are no reset -/

/-- What every event that is no command and no reset keeps: the registers that the block writes, the slots and the capability
bits. Of TBLIDX it may store a host's write, and memory keeps its canonical form. -/
structure Quiet (s t : State) : Prop where
  status  : t.status = s.status
  result  : t.result = s.result
  sel     : t.sel = s.sel
  selpoly : t.selpoly = s.selpoly
  slots   : t.slots = s.slots
  capHw   : t.capHw = s.capHw
  capWide : t.capWide = s.capWide
  tblidx  : t.tblidx = s.tblidx ∨ ∃ v, t.tblidx = tblidxStored v
  memory  : s.mem.wf → t.mem.wf

/-- Being quiet does not look at the events still to come. -/
theorem Quiet.of_inbox {s t : State} {q : List BusEvent} (h : Quiet { s with inbox := q } t) : Quiet s t :=
  ⟨h.status, h.result, h.sel, h.selpoly, h.slots, h.capHw, h.capWide, h.tblidx, h.memory⟩

theorem writeReg_quiet (s : State) (r : HostReg) (v : Word) : Quiet s (s.writeReg r v) := by
  cases r with
  | tblidx => exact ⟨rfl, rfl, rfl, rfl, rfl, rfl, rfl, .inr ⟨v, rfl⟩, id⟩
  | _ => exact ⟨rfl, rfl, rfl, rfl, rfl, rfl, rfl, .inl rfl, id⟩

/-- A host write is quiet or starts a command. -/
theorem hostWrite_effect {s t : State} {r : HostReg} {v : Word} (h : s.hostWrite r v = .next t) :
    Quiet s t ∨ (r = .cmd ∧ s.onCmdWrite v = .next t) := by
  obtain hcmd | ⟨-, rfl⟩ := hostWrite_cases h
  · exact .inr hcmd
  · exact .inl (writeReg_quiet s r v)

/-- A host access is quiet or a write to CMD, of its own data or of the data last read. -/
theorem hostAccess_effect {s t : State} {acc : HostAccess} (h : s.hostAccess acc = .next t) :
    Quiet s t ∨ ∃ w, acc.target s.base = .register .cmd ∧ (acc.op = .write w ∨ acc.op = .writeBack ∧ s.rdata = w) ∧
      s.onCmdWrite w = .next t := by
  rw [State.hostAccess] at h
  split at h
  next =>
    cases h
    exact .inl ⟨rfl, rfl, rfl, rfl, rfl, rfl, rfl, .inl rfl, id⟩
  next => cases h
  next r htarget =>
    split at h
    next =>
      cases h
      exact .inl ⟨rfl, rfl, rfl, rfl, rfl, rfl, rfl, .inl rfl, id⟩
    next v hop => exact (hostWrite_effect h).imp id fun ⟨hr, hc⟩ => ⟨v, hr ▸ htarget, .inl hop, hc⟩
    next hop => exact (hostWrite_effect h).imp id fun ⟨hr, hc⟩ => ⟨s.rdata, hr ▸ htarget, .inr ⟨hop, rfl⟩, hc⟩

/-! ### Every step -/

/-- Everything a write to CMD can do, the start of ON_CMD_WRITE before it and the landing of overlapped stores after it: the word
is GET or a SELECT, or HASH, or illegal (R170, R202). -/
theorem onCmdWrite_effect {s t : State} {w : Word} (h : s.onCmdWrite w = .next t) :
    (∃ k, ((w = 0x00000001#32 ∧ k = mux s.poly) ∨ ∃ v, k = .known v) ∧ t = (s.beginCommand.request k).settle) ∨
    (w = 0x00000003#32 ∧ t = s.beginCommand.hashCommand.settle) ∨
    t = (s.beginCommand.complete .illegal).settle := by
  obtain ⟨i, u, hd, hu, rfl⟩ | ⟨-, -, rfl⟩ := onCmdWrite_cases h
  · obtain rfl := encode_of_decode hd
    obtain ⟨k, ⟨rfl, rfl⟩ | ⟨v, -, rfl⟩, rfl⟩ | ⟨rfl, rfl⟩ := exec_cases hu
    · exact .inl ⟨_, .inl ⟨by decide, by simp⟩, rfl⟩
    · exact .inl ⟨_, .inr ⟨v, rfl⟩, rfl⟩
    · exact .inr (.inl ⟨by decide, rfl⟩)
  · exact .inr (.inr rfl)

/-- Everything a step with an event can do to the block: nothing but a register write, a command, or a reset. -/
theorem step_effect {s t : State} {e : BusEvent} {rest : List BusEvent} (hq : s.inbox = e :: rest)
    (h : step s = .next t) :
    (e.isReset = false ∧ Quiet s t) ∨
    (e.isReset = false ∧ ∃ w, CmdWriteNext s w rest ∧ State.onCmdWrite { s with inbox := rest } w = .next t) ∨
    (e.isReset = true ∧ ∃ u, t = State.resetAction u ∧ u.strapHw = s.strapHw ∧ u.strapWide = s.strapWide ∧
      (s.mem.wf → u.mem.wf)) := by
  have hrun : State.runEvent { s with inbox := rest } e = .next t := by simpa [step, hq] using h
  obtain ⟨acc, rfl, ha⟩ | ⟨o, rfl, rfl⟩ | ⟨a, b, rfl, rfl⟩ | ⟨hw, wide, rfl, rfl⟩ | ⟨rfl, rfl⟩ | ⟨w, rfl, rfl⟩ :=
    runEvent_cases hrun
  · obtain hquiet | ⟨w, htarget, hop, hc⟩ := hostAccess_effect ha
    · exact .inl ⟨rfl, hquiet.of_inbox⟩
    · exact .inr (.inl ⟨rfl, w, ⟨acc, hq, htarget, hop⟩, hc⟩)
  · exact .inl ⟨rfl, rfl, rfl, rfl, rfl, rfl, rfl, rfl, .inl rfl, id⟩
  · exact .inl ⟨rfl, rfl, rfl, rfl, rfl, rfl, rfl, rfl, .inl rfl, fun hm => Memory.store_wf hm a.isLt⟩
  · exact .inl ⟨rfl, rfl, rfl, rfl, rfl, rfl, rfl, rfl, .inl rfl, id⟩
  · exact .inr (.inr ⟨rfl, _, rfl, rfl, rfl, id⟩)
  · exact .inr (.inr ⟨rfl, _, rfl, by simp, by simp, fun hm => settle_memory_wf (by simpa using hm)⟩)

end Sys2Proof.Machine
end

section
/-! SUPPORT. The invariant: every command and every step keeps it (R23, R30, R31, R32, R39, R41). -/
namespace Sys2Proof.Machine

/-! ### The slots of a legal state -/

theorem LegalSlots.empty (capHw : Bool) : LegalSlots SlotStore.empty capHw :=
  ⟨fun w c h => by simp at h, fun c h => by simp at h⟩

/-- In a legal slot store ENSURE_BUILT leaves the constructed calculator, whether it builds it or finds it. -/
theorem builtCalculator_of_legalSlots {s : State} (h : LegalSlots s.slots s.capHw) (w : WellKnown) :
    s.builtCalculator w = w.construct s.capHw := by
  cases hw : s.slots.get (.known w) with
  | none => exact builtCalculator_of_none hw
  | some c => rw [builtCalculator_of_some hw, h.known w c hw]

theorem LegalSlots.request {s : State} (h : LegalSlots s.slots s.capHw) (k : SlotId) :
    LegalSlots (s.request k).slots (s.request k).capHw := by
  constructor
  case known =>
    intro w c hc
    by_cases hk : .known w = k
    · subst hk
      rw [request_eq, SlotStore.get_set_same] at hc
      rw [← Option.some.inj hc]
      exact builtCalculator_of_legalSlots h w
    · rw [request_get_other hk] at hc
      exact h.known w c hc
  case scratch =>
    intro c hc
    by_cases hk : .scratch = k
    · subst hk
      rw [request_eq, SlotStore.get_set_same] at hc
      exact ⟨s.poly, (Option.some.inj hc).symm⟩
    · rw [request_get_other hk] at hc
      exact h.scratch c hc

/-! ### Commands -/

/-- A state in which a command may run: legal but for STATUS, which only has to complete to a legal value. -/
structure State.Ready (s : State) : Prop where
  status    : ∀ code, LegalStatus (statusComplete code s.status)
  slots     : LegalSlots s.slots s.capHw
  selection : LegalSelection s
  tblidx    : tblidxStored s.tblidx = s.tblidx
  memory    : Memory.wf s.mem

/-- After the start of ON_CMD_WRITE a legal state is ready for its command. -/
theorem State.Inv.beginCommand {s : State} (h : s.Inv) : s.beginCommand.Ready where
  status code := by simpa using h.status.complete code
  slots := by simpa using h.slots
  selection := by simpa [LegalSelection] using h.selection
  tblidx := by simpa using h.tblidx
  memory := by simpa using h.memory

theorem State.Ready.complete {s : State} (h : s.Ready) (code : ErrCode) : (s.complete code).Inv :=
  ⟨h.status code, h.slots, h.selection, h.tblidx, h.memory⟩

theorem State.Ready.request {s : State} (h : s.Ready) (k : SlotId) : (s.request k).Inv :=
  ⟨h.status .ok, h.slots.request k, .inr ⟨k, _, SlotStore.get_set_same _ _ _, rfl, rfl⟩, h.tblidx, h.memory⟩

theorem State.Ready.hashCommand {s : State} (h : s.Ready) : s.hashCommand.Inv := by
  obtain ⟨code, hstatus, -⟩ := hashCommand_completes s
  exact ⟨hstatus ▸ h.status code, by simpa using h.slots, by simpa [LegalSelection] using h.selection,
    by simpa using h.tblidx, by simpa using h.memory⟩

/-- The landing of overlapped stores changes memory only, and keeps its canonical form. -/
theorem State.Inv.settle {s : State} (h : s.Inv) : s.settle.Inv :=
  ⟨h.status, h.slots, h.selection, h.tblidx, settle_memory_wf h.memory⟩

/-! ### Steps -/

theorem State.Inv.withInbox {s : State} (h : s.Inv) (q : List BusEvent) : State.Inv { s with inbox := q } :=
  ⟨h.status, h.slots, h.selection, h.tblidx, h.memory⟩

/-- A reset makes every state with canonical memory legal. -/
theorem resetAction_inv {s : State} (h : s.mem.wf) : s.resetAction.Inv :=
  ⟨.inl rfl, .empty _, .inl ⟨rfl, rfl⟩, (rfl : tblidxStored 0 = 0), h⟩

theorem Quiet.inv {s t : State} (hq : Quiet s t) (h : s.Inv) : t.Inv where
  status := hq.status ▸ h.status
  slots := by
    rw [hq.slots, hq.capHw]
    exact h.slots
  selection := by simpa [LegalSelection, hq.sel, hq.selpoly, hq.slots] using h.selection
  tblidx := by
    obtain heq | ⟨v, hv⟩ := hq.tblidx
    · rw [heq, h.tblidx]
    · rw [hv, tblidxStored_idem]
  memory := hq.memory h.memory

/-- A write to CMD keeps the invariant, whatever the word. -/
theorem onCmdWrite_inv {s t : State} {w : Word} (h : s.Inv) (hc : s.onCmdWrite w = .next t) : t.Inv := by
  obtain ⟨k, -, rfl⟩ | ⟨-, rfl⟩ | rfl := onCmdWrite_effect hc
  · exact (h.beginCommand.request k).settle
  · exact h.beginCommand.hashCommand.settle
  · exact (h.beginCommand.complete .illegal).settle

end Sys2Proof.Machine
end

section
/-! The invariant, settled: it holds after reset and every step keeps it. -/
namespace Sys2Proof.Machine

/-- Settles O42: a step is idle, a register write, a command or a reset, and each of them keeps the invariant. -/
theorem stepKeepsTheInvariant : Obligations.StepKeepsTheInvariant := by
  intro s t hs h
  obtain ⟨-, rfl⟩ | ⟨e, rest, hq, -⟩ := step_cases h
  · exact hs
  · obtain ⟨-, hquiet⟩ | ⟨-, w, -, hc⟩ | ⟨-, u, rfl, -, -, hmem⟩ := step_effect hq h
    · exact hquiet.inv hs
    · exact onCmdWrite_inv (hs.withInbox rest) hc
    · exact resetAction_inv (hmem hs.memory)

theorem resetOn_inv (hw wide : Bool) (base : Nat) (admits : List Region) : (State.resetOn hw wide base admits).Inv :=
  ⟨.inl rfl, .empty _, .inl ⟨rfl, rfl⟩, (rfl : tblidxStored 0 = 0), .nil, by simp [State.resetOn]⟩

/-- Settles O41: State.reset is the reset state of one platform. -/
theorem resetIsLegal : Obligations.ResetIsLegal :=
  ⟨resetOn_inv _ _ _ _, resetOn_inv⟩

end Sys2Proof.Machine
end

section
/-! The step, settled: which events it refuses, where a host access goes, and that a CMD write runs its command (R21, R35, R170). -/
namespace Sys2Proof.Machine

/-! ### Which steps answer a next state -/

theorem onCmdWrite_of_decode {s : State} {w : Word} {i : Instr} (h : decode w = .ok i) :
    s.onCmdWrite w = thenNext (exec i s.beginCommand) State.settle := by
  rw [State.onCmdWrite, h]

theorem onCmdWrite_total (s : State) (w : Word) : ∃ t, s.onCmdWrite w = .next t := by
  cases h : decode w with
  | ok i =>
    obtain ⟨u, hu⟩ := exec_total i s.beginCommand
    exact ⟨u.settle, by rw [onCmdWrite_of_decode h, hu, thenNext]⟩
  | error r => exact ⟨_, by rw [State.onCmdWrite, h]⟩

theorem hostWrite_total (s : State) (r : HostReg) (v : Word) : ∃ t, s.hostWrite r v = .next t := by
  rw [State.hostWrite]
  split
  · exact onCmdWrite_total s v
  · exact ⟨_, rfl⟩

theorem hostAccess_next_iff (s : State) (acc : HostAccess) :
    (∃ t, s.hostAccess acc = .next t) ↔ acc.accepted s.base = true := by
  rw [State.hostAccess, HostAccess.accepted]
  cases acc.target s.base with
  | elsewhere => simp
  | malformed => simp
  | register r =>
    have hnext : ∀ v, ∃ t, s.hostWrite r v = .next t := hostWrite_total s r
    cases acc.op <;> simp [hnext]

theorem arm_next_iff (s : State) (o : Overlap) :
    (∃ t, s.arm o = .next t) ↔ (BusEvent.during o).accepted s.base = true := by
  cases o with
  | store a b => simp [State.arm, BusEvent.accepted]
  | access acc =>
    simp only [State.arm, BusEvent.accepted, HostAccess.accepted]
    cases acc.target s.base <;> simp

theorem runEvent_next_iff (s : State) (e : BusEvent) :
    (∃ t, s.runEvent e = .next t) ↔ e.accepted s.base = true := by
  cases e with
  | host acc => exact hostAccess_next_iff s acc
  | during o => exact arm_next_iff s o
  | _ => simp [State.runEvent, BusEvent.accepted]

/-- Settles O9: of the events only a host access can be refused, and it is refused where its target is malformed. -/
theorem stepRefusesExactlyMalformedAccesses : Obligations.StepRefusesExactlyMalformedAccesses := by
  intro s
  cases hq : s.inbox with
  | nil => simp [step, hq]
  | cons e rest => simpa [step, hq] using runEvent_next_iff { s with inbox := rest } e

/-! ### Where a host access goes -/

theorem targetOfOffset_ne_elsewhere (width o : Nat) : targetOfOffset width o ≠ .elsewhere := by
  rw [targetOfOffset]
  split
  · split <;> simp
  · simp

/-- A platform address misses the window, begins below it and reaches into it, or lies in it (log entries 6 and 12). -/
theorem target_platform (base a width : Nat) (op : HostOp) :
    HostAccess.target base { addr := .platform a, width := width, op := op } =
      if a + width ≤ base ∨ base + 64 ≤ a then .elsewhere
      else if a < base then .malformed
      else targetOfOffset width (a - base) := rfl

/-- Settles O10: an offset reaches what targetOfOffset says, and a platform address is sorted by the window's two edges. -/
theorem accessTargetsFollowTheWindow : Obligations.AccessTargetsFollowTheWindow := by
  refine ⟨fun base o width op => ⟨targetOfOffset_register_iff width o, targetOfOffset_malformed⟩,
    fun base o width op ho hw => ?_, fun base a width op hlo hhi => ?_, fun base a width op => ?_⟩
  · have hin : ¬ (base + o + width ≤ base ∨ base + 64 ≤ base + o) := by omega
    have hnot : ¬ base + o < base := by omega
    rw [target_platform, if_neg hin, if_neg hnot, Nat.add_sub_cancel_left]
    rfl
  · have hin : ¬ (a + width ≤ base ∨ base + 64 ≤ a) := by omega
    rw [target_platform, if_neg hin, if_pos hlo]
  · rw [target_platform]
    split
    case isTrue hout => simpa using hout
    case isFalse hin =>
      split
      · simpa using hin
      · simpa [targetOfOffset_ne_elsewhere] using hin

/-! ### A write to CMD -/

theorem withFetchWord_cmdWriteNext (s : State) (nbits w : Nat) :
    CmdWriteNext (s.withFetchWord nbits w) (wordOfTable nbits w) s.inbox :=
  ⟨_, rfl, rfl, .inl rfl⟩

/-- Settles O6: a CMD write is ON_CMD_WRITE of its word, and withFetchWord places one. -/
theorem stepRunsTheDecodedCommand : Obligations.StepRunsTheDecodedCommand := by
  refine ⟨fun s w rest i hw hd => ?_, fun s nbits w i hd => ?_⟩
  · rw [step_of_cmdWriteNext hw, onCmdWrite_of_decode hd]
  · rw [step_of_cmdWriteNext (withFetchWord_cmdWriteNext s nbits w),
      onCmdWrite_of_decode (decode_of_decodeTableWord hd)]
    rfl

end Sys2Proof.Machine
end

section
/-! The register window, settled: what a host read returns and what a host write stores (R21 to R35). -/
namespace Sys2Proof.Machine

/-! ### Reads and ignored writes -/

/-- Settles O56: each listed offset is that of a register, and the listed value is what reading it gives. -/
theorem hostReadReturnsTheRegister : Obligations.HostReadReturnsTheRegister := by
  intro s rest off v hmem hq
  have hreg : ∃ r, HostReg.ofOffset off = some r ∧ v = s.readReg r := by
    simp only [List.mem_cons, Prod.mk.injEq, List.not_mem_nil, or_false] at hmem
    obtain ⟨rfl, rfl⟩ | ⟨rfl, rfl⟩ | ⟨rfl, rfl⟩ | ⟨rfl, rfl⟩ | ⟨rfl, rfl⟩ | ⟨rfl, rfl⟩ | ⟨rfl, rfl⟩ | ⟨rfl, rfl⟩ |
      ⟨rfl, rfl⟩ | ⟨rfl, rfl⟩ | ⟨rfl, rfl⟩ | ⟨rfl, rfl⟩ | ⟨rfl, rfl⟩ | ⟨rfl, rfl⟩ | ⟨rfl, rfl⟩ | ⟨rfl, rfl⟩ := hmem <;>
      exact ⟨_, rfl, rfl⟩
  obtain ⟨r, hr, rfl⟩ := hreg
  exact step_of_readEvent hq hr

/-- Settles O55: each listed offset is that of a register, not CMD, whose write stores nothing. -/
theorem readOnlyRegistersIgnoreWrites : Obligations.ReadOnlyRegistersIgnoreWrites := by
  intro s v rest off hmem hq
  have hreg : ∃ r, HostReg.ofOffset off = some r ∧ r ≠ .cmd ∧ ∀ u : State, u.writeReg r v = u := by
    simp only [List.mem_cons, List.not_mem_nil, or_false] at hmem
    obtain rfl | rfl | rfl | rfl | rfl | rfl | rfl | rfl | rfl | rfl := hmem <;>
      exact ⟨_, rfl, by decide, fun _ => rfl⟩
  obtain ⟨r, hr, hcmd, hsame⟩ := hreg
  rw [step_of_writeEvent hq hr hcmd, hsame]

/-! ### The registers the host writes -/

theorem HostReg.ofOffset_offset (r : HostReg) : HostReg.ofOffset r.offset = some r := by
  cases r <;> rfl

/-- Membership in the list of operand registers, register by register. -/
theorem operand_cases {r : HostReg} (hr : r ∈ [HostReg.poly, .seed, .addr, .len]) :
    r = .poly ∨ r = .seed ∨ r = .addr ∨ r = .len := by
  simpa using hr

/-- A write of POLY, SEED, ADDR or LEN is read back, and is seen in no other register. -/
theorem readReg_writeReg {r : HostReg} (hr : r ∈ [HostReg.poly, .seed, .addr, .len]) (s : State) (v : Word) (q : HostReg) :
    (s.writeReg r v).readReg q = if q = r then v else s.readReg q := by
  obtain rfl | rfl | rfl | rfl := operand_cases hr <;> cases q <;> rfl

theorem writeReg_frame {r : HostReg} (s : State) (v : Word) :
    (s.writeReg r v).slots = s.slots ∧ (s.writeReg r v).mem = s.mem ∧ (s.writeReg r v).inbox = s.inbox := by
  cases r <;> exact ⟨rfl, rfl, rfl⟩

/-- Settles O51: a write stores and is read back, commands keep the operands (exec_keeps_operands), and reset clears them. -/
theorem operandRegistersHoldTheHostsWrite : Obligations.OperandRegistersHoldTheHostsWrite := by
  intro r hr
  refine ⟨fun s v rest hq => ?_, fun i s t h => ?_, ?_⟩
  · have hcmd : r ≠ .cmd := by
      rintro rfl
      simp at hr
    refine ⟨_, step_of_writeEvent hq (HostReg.ofOffset_offset r) hcmd, ?_, fun q hqr => ?_, writeReg_frame _ v⟩
    · rw [readReg_writeReg hr, if_pos rfl]
    · rw [readReg_writeReg hr, if_neg hqr]
      cases q <;> rfl
  · obtain ⟨hpoly, hseed, haddr, hlen, -⟩ := exec_keeps_operands h
    obtain rfl | rfl | rfl | rfl := operand_cases hr
    · exact hpoly
    · exact hseed
    · exact haddr
    · exact hlen
  · obtain rfl | rfl | rfl | rfl := operand_cases hr <;> rfl

theorem tblidxStored_fields (v : Word) :
    tblByte (tblidxStored v) = v.extractLsb' 0 8 ∧ tblSlice (tblidxStored v) = v.extractLsb' 8 4 ∧
      tblSrc (tblidxStored v) = v.extractLsb' 12 3 := by
  simp only [tblByte, tblSlice, tblSrc, tblidxStored, BitVec.extractLsb'_and]
  exact ⟨BitVec.and_allOnes, BitVec.and_allOnes, BitVec.and_allOnes⟩

/-- Settles O52: the stored value is w[14:0], which keeps the three fields whole. -/
theorem tblidxStoresFifteenBits : Obligations.TblidxStoresFifteenBits := by
  refine ⟨fun s v rest hq => ?_, rfl⟩
  obtain ⟨hbyte, hslice, hsrc⟩ := tblidxStored_fields v
  exact ⟨_, step_of_writeEvent (r := .tblidx) hq rfl (by decide), tblidxStored_eq_setWidth v, hbyte, hslice, hsrc, rfl⟩

/-! ### TBLDATA -/

theorem SlotId.ofNum_of_ge_six {n : BitVec 3} (h : 6 ≤ n.toNat) : SlotId.ofNum n = none := by
  revert n
  decide

/-- Settles O53: TBLDATA looks up the slot that SRC names. -/
theorem tbldataReadsTheNamedEntry : Obligations.TbldataReadsTheNamedEntry := by
  refine ⟨fun s k p T hsrc hslot => ?_, fun s k hsrc hslot => ?_, fun s hsrc => ?_, fun s rest hq => ?_,
    fun s v rest hq => ?_⟩
  · rw [State.readReg, State.tblData, hsrc, calculatorAt_num, hslot]
  · rw [State.readReg, State.tblData, hsrc, calculatorAt_num]
    obtain hslot | ⟨p, hslot⟩ := hslot <;> rw [hslot]
  · rw [State.readReg, State.tblData, State.calculatorAt, SlotId.ofNum_of_ge_six hsrc]
    rfl
  · exact step_of_readEvent hq rfl
  · exact readOnlyRegistersIgnoreWrites s v rest 0x2C (by decide) hq

end Sys2Proof.Machine
end

section
/-! The legal states, settled: what slots, SEL, SELPOLY and the reserved bits show (R23, R30, R31, R34, R41). -/
namespace Sys2Proof.Machine

/-- R41: construction makes a hardware-backed calculator in slot 4 only, and with the capability only. -/
theorem LegalSlots.hardware {t : SlotStore} {capHw : Bool} (h : LegalSlots t capHw) {k : SlotId} {c : Calculator}
    (hc : t.get k = some c) (hhw : c.isHardware = true) :
    k = .known .crc32cBest ∧ capHw = true ∧ c = .hardware polyCrc32c := by
  cases k with
  | known w =>
    obtain rfl := h.known w c hc
    rw [construct_isHardware, Bool.and_eq_true, decide_eq_true_iff] at hhw
    obtain ⟨rfl, rfl⟩ := hhw
    exact ⟨rfl, rfl, rfl⟩
  | scratch =>
    obtain ⟨p, rfl⟩ := h.scratch c hc
    cases hhw

/-- R30, R31: a legal SEL with VALID = 1 describes a valid slot, and one with VALID = 0 is 0. -/
theorem LegalSelection.cases {s : State} (h : LegalSelection s) :
    (selValid s.sel = false ∧ selHw s.sel = false ∧ s.sel = 0 ∧ s.selpoly = 0) ∨
    ∃ k c, s.slots.get k = some c ∧ s.calculatorAt (selSlot s.sel) = some c ∧ selValid s.sel = true ∧
      selHw s.sel = c.isHardware ∧ s.sel = selWord k.num c.isHardware ∧ s.selpoly = c.poly := by
  obtain ⟨hsel, hpoly⟩ | ⟨k, c, hc, hsel, hpoly⟩ := h
  · exact .inl ⟨by rw [hsel]; decide, by rw [hsel]; decide, hsel, hpoly⟩
  · exact .inr ⟨k, c, hc, by simp [hsel, hc], by simp [hsel], by simp [hsel], hsel, hpoly⟩

/-- Settles O43: SEL.HW is the kind of a valid slot, and a hardware-backed one has the capability. -/
theorem hardwareSlotNeedsCapability : Obligations.HardwareSlotNeedsCapability := by
  intro s hs
  refine ⟨fun k c hc hhw => ?_, fun hsel => ?_⟩
  · obtain ⟨hk, hcap, -⟩ := hs.slots.hardware hc hhw
    exact ⟨hk, hcap⟩
  · obtain ⟨hcap, -⟩ := capWord_fields s.capHw s.capWide
    obtain ⟨-, hnone, -⟩ | ⟨k, c, hc, -, -, hkind, -⟩ := hs.selection.cases
    · rw [hnone] at hsel
      cases hsel
    · rw [State.readReg, hcap]
      exact (hs.slots.hardware hc (hkind ▸ hsel)).2.1

/-- Settles O44: the two kinds of legal selection, and the write that is ignored at offset 0x24. -/
theorem selpolyIsTheSelectedPolynomial : Obligations.SelpolyIsTheSelectedPolynomial := by
  refine ⟨rfl, fun s v rest hq => readOnlyRegistersIgnoreWrites s v rest 0x24 (by decide) hq, fun s hs => ?_⟩
  obtain ⟨hinvalid, -, -, hzero⟩ | ⟨k, c, hc, hat, hvalid, hkind, -, hpoly⟩ := hs.selection.cases
  · exact ⟨fun hv => by simp [hinvalid] at hv, fun _ => hzero⟩
  · refine ⟨fun _ => ⟨c, hat, hpoly, hkind, fun hhw => ?_⟩, fun hv => by simp [hvalid] at hv⟩
    obtain ⟨-, -, rfl⟩ := hs.slots.hardware hc hhw
    exact hpoly

/-- Settles O45, register by register from the invariant. -/
theorem reservedBitsReadZero : Obligations.ReservedBitsReadZero := by
  intro s hs
  obtain ⟨hstatus, herr⟩ := hs.status.fields
  obtain ⟨-, -, -, hcap⟩ := capWord_fields s.capHw s.capWide
  refine ⟨hstatus, herr, ?_, ?_, hcap, rfl, rfl⟩
  · rw [State.readReg]
    obtain ⟨-, -, hsel, -⟩ | ⟨k, c, -, -, -, -, hsel, -⟩ := hs.selection.cases
    · rw [hsel]
      decide
    · rw [hsel, selWord_reserved]
  · rw [State.readReg, ← hs.tblidx, tblidxStored_reserved]

end Sys2Proof.Machine
end

section
/-! What no step but the right one changes, settled: valid slots, the capability bits and RESULT (R24, R29, R40, R45). -/
namespace Sys2Proof.Machine

/-! ### Valid slots -/

/-- A write to CMD keeps every valid well-known slot. -/
theorem onCmdWrite_keeps_known {s t : State} {v : Word} {w : WellKnown} {c : Calculator}
    (h : s.onCmdWrite v = .next t) (hc : s.slots.get (.known w) = some c) : t.slots.get (.known w) = some c := by
  obtain ⟨k, -, rfl⟩ | ⟨-, rfl⟩ | rfl := onCmdWrite_effect h
  · exact request_get_known_of_some k (by simpa using hc)
  · simpa using hc
  · simpa using hc

/-- A write to CMD that changes slot 5 is a GET of an unrecognised polynomial. -/
theorem onCmdWrite_changes_scratch {s t : State} {v : Word} (h : s.onCmdWrite v = .next t)
    (hne : t.slots.get .scratch ≠ s.slots.get .scratch) : v = 0x00000001#32 ∧ mux s.poly = .scratch := by
  obtain ⟨k, hk, rfl⟩ | ⟨-, rfl⟩ | rfl := onCmdWrite_effect h
  · by_cases hscratch : .scratch = k
    · obtain ⟨hv, hmux⟩ | ⟨w, hw⟩ := hk
      · exact ⟨hv, by rw [← hmux, hscratch]⟩
      · rw [hw] at hscratch
        cases hscratch
    · rw [settle_slots, request_get_other hscratch, beginCommand_slots] at hne
      exact absurd rfl hne
  · simp at hne
  · simp at hne

/-- Settles O46: only a request writes a slot, and it writes only an invalid one or slot 5. -/
theorem validSlotsAreImmutable : Obligations.ValidSlotsAreImmutable := by
  refine ⟨fun s t e rest w c hq hreset h hc => ?_, fun s t e rest hq hreset h hne => ?_, fun s t h => ?_⟩
  · obtain ⟨-, hquiet⟩ | ⟨-, v, -, hcmd⟩ | ⟨htrue, -⟩ := step_effect hq h
    · rw [hquiet.slots, hc]
    · exact onCmdWrite_keeps_known hcmd hc
    · simp [hreset] at htrue
  · obtain ⟨-, hquiet⟩ | ⟨-, v, hnext, hcmd⟩ | ⟨htrue, -⟩ := step_effect hq h
    · exact absurd (congrArg (·.get .scratch) hquiet.slots) hne
    · obtain ⟨rfl, hmux⟩ := onCmdWrite_changes_scratch hcmd hne
      exact ⟨hnext, hmux⟩
    · simp [hreset] at htrue
  · obtain rfl : s.hashCommand = t := by simpa using h
    exact hashCommand_slots s

/-! ### The capability bits -/

theorem onCmdWrite_keeps_cap {s t : State} {w : Word} (h : s.onCmdWrite w = .next t) :
    t.capHw = s.capHw ∧ t.capWide = s.capWide := by
  obtain ⟨k, -, rfl⟩ | ⟨-, rfl⟩ | rfl := onCmdWrite_effect h <;> simp [request_eq]

/-- A step latches the straps if its event is a reset, and keeps the capability bits if it is not. -/
theorem step_cap {s t : State} {e : BusEvent} {rest : List BusEvent} (hq : s.inbox = e :: rest) (h : step s = .next t) :
    (e.isReset = false ∧ t.capHw = s.capHw ∧ t.capWide = s.capWide) ∨
    (e.isReset = true ∧ t.capHw = s.strapHw ∧ t.capWide = s.strapWide) := by
  obtain ⟨hfalse, hquiet⟩ | ⟨hfalse, w, -, hcmd⟩ | ⟨htrue, u, rfl, hhw, hwide, -⟩ := step_effect hq h
  · exact .inl ⟨hfalse, hquiet.capHw, hquiet.capWide⟩
  · exact .inl ⟨hfalse, onCmdWrite_keeps_cap (s := { s with inbox := rest }) hcmd⟩
  · exact .inr ⟨htrue, hhw, hwide⟩

/-- Settles O50: step_cap, and the strap event moves the pins only. -/
theorem strapsMatterAtResetOnly : Obligations.StrapsMatterAtResetOnly := by
  refine ⟨fun s t e rest hq hreset h => ?_, fun s t e rest hq hreset h => ?_, fun s hw wide rest hq => ?_⟩
  · obtain ⟨-, hcap⟩ | ⟨htrue, -⟩ := step_cap hq h
    · exact hcap
    · simp [hreset] at htrue
  · obtain ⟨hfalse, -⟩ | ⟨-, hcap⟩ := step_cap hq h
    · simp [hreset] at hfalse
    · exact hcap
  · simp [step, hq, State.runEvent]

/-- Settles O54: CAP is computed from the two latched bits, and step_cap says when they change. -/
theorem capShowsTheLatchedCapability : Obligations.CapShowsTheLatchedCapability := by
  obtain ⟨hkeep, hlatch, -⟩ := strapsMatterAtResetOnly
  refine ⟨fun s => ?_, fun s t e rest hq h => ⟨fun hreset => ?_, fun hreset => ?_⟩,
    fun s v rest hq => readOnlyRegistersIgnoreWrites s v rest 0x08 (by decide) hq⟩
  · obtain ⟨hbit0, hbit1, hrest, -⟩ := capWord_fields s.capHw s.capWide
    exact ⟨hbit0, hbit1, hrest⟩
  · obtain ⟨hhw, hwide⟩ := hkeep s t e rest hq hreset h
    rw [State.readReg, State.readReg, hhw, hwide]
  · obtain ⟨hhw, hwide⟩ := hlatch s t e rest hq hreset h
    rw [State.readReg, hhw, hwide]
    cases s.strapHw <;> cases s.strapWide <;> rfl

/-! ### RESULT -/

/-- A write to CMD that changes RESULT is a HASH that completed with 0. -/
theorem onCmdWrite_changes_result {s t : State} {w : Word} (h : s.onCmdWrite w = .next t) (hne : t.result ≠ s.result) :
    w = 0x00000003#32 ∧ statusErr t.status = 0#4 := by
  obtain ⟨k, -, rfl⟩ | ⟨rfl, rfl⟩ | rfl := onCmdWrite_effect h
  · simp [request_eq] at hne
  · obtain ⟨code, hstatus, hresult⟩ := hashCommand_completes s.beginCommand
    by_cases hok : code = .ok
    · subst hok
      rw [settle_status, hstatus]
      exact ⟨rfl, (completed_statusComplete .ok _).err⟩
    · rw [settle_result, hresult hok, beginCommand_result] at hne
      exact absurd rfl hne
  · simp at hne

/-- Settles O57: a register write keeps RESULT, and of the commands only a HASH that completes with 0 writes it. -/
theorem resultIsWrittenBySuccessfulHashOnly : Obligations.ResultIsWrittenBySuccessfulHashOnly := by
  intro s t e rest hq h hne
  obtain ⟨-, hquiet⟩ | ⟨-, w, hnext, hcmd⟩ | ⟨htrue, -⟩ := step_effect hq h
  · exact absurd hquiet.result hne
  · obtain ⟨rfl, herr⟩ := onCmdWrite_changes_result hcmd hne
    exact .inr ⟨hnext, herr⟩
  · exact .inl htrue

end Sys2Proof.Machine
end

section
/-! Requests in any order, settled (R44). -/
namespace Sys2Proof.Machine

/-! ### One request -/

/-- What a request does: the host's write to POLY, if it has one, and then its command. -/
def State.serve (s : State) (r : Request) : State := State.request { s with poly := r.written.getD s.poly } r.slot

/-- The requests happen one after the other. -/
theorem afterRequests_iff (rs : List Request) (s t : State) : AfterRequests rs s t ↔ t = rs.foldl State.serve s := by
  induction rs generalizing s with
  | nil => exact Iff.rfl
  | cons r rest ih =>
    rw [List.foldl_cons, ← ih]
    cases r with
    | get p => simp [AfterRequests, getCalculator_eq_request, State.serve, Request.written, Request.slot]
    | select w => simp [AfterRequests, exec_select_eq_request, State.serve, Request.written, Request.slot]

/-- A request changes POLY, one slot, SEL, SELPOLY and STATUS, and nothing else. -/
theorem serve_eq (s : State) (r : Request) :
    s.serve r =
      { s with
        poly := r.written.getD s.poly, slots := (s.serve r).slots, sel := (s.serve r).sel
        selpoly := (s.serve r).selpoly, status := statusComplete .ok s.status } := rfl

theorem LegalSlots.serve {s : State} (h : LegalSlots s.slots s.capHw) (r : Request) :
    LegalSlots (s.serve r).slots (s.serve r).capHw :=
  LegalSlots.request (s := { s with poly := r.written.getD s.poly }) h r.slot

theorem wellKnownPoly_eq (w : WellKnown) : wellKnownPoly w = w.poly := by
  cases w <;> rfl

theorem firstCalculator_eq_construct (w : WellKnown) (capHw : Bool) : firstCalculator w capHw = w.construct capHw := by
  cases w <;> cases capHw <;> rfl

/-- A well-known slot after a request in a legal state: constructed if it was asked for, else as before. -/
theorem serve_known {s : State} (h : LegalSlots s.slots s.capHw) (r : Request) (w : WellKnown) :
    (s.serve r).slots.get (.known w) =
      if r.slot = .known w then some (w.construct s.capHw) else s.slots.get (.known w) := by
  split
  case isTrue hr =>
    rw [State.serve, hr, request_eq, SlotStore.get_set_same]
    exact congrArg some (builtCalculator_of_legalSlots h w)
  case isFalse hr => exact request_get_other (Ne.symm hr)

/-- Slot 5 after a request: the table of an unrecognised polynomial, else as before. -/
theorem serve_scratch (s : State) (r : Request) :
    (s.serve r).slots.get .scratch = (r.unrecognised.map tableCalculator).or (s.slots.get .scratch) := by
  cases r with
  | get p =>
    by_cases hp : mux p = .scratch
    · simp [State.serve, Request.slot, Request.unrecognised, Request.written, hp, request_eq, State.calculatorFor]
    · simp only [Request.unrecognised, hp, if_false, Option.map_none, Option.none_or]
      exact request_get_other (Ne.symm hp)
  | select w => exact request_get_other (by simp [Request.slot])

/-- A request that asks for a well-known slot selects that slot's polynomial. -/
theorem Request.poly_of_known {r : Request} {w : WellKnown} (h : r.slot = .known w) : r.poly = w.poly := by
  cases r with
  | get p => exact mux_known_poly h
  | select v =>
    obtain rfl : v = w := by simpa [Request.slot] using h
    exact wellKnownPoly_eq v

/-- A request that asks for slot 5 is a GET, whose polynomial the host writes. -/
theorem Request.written_of_scratch {r : Request} (h : r.slot = .scratch) : r.written = some r.poly := by
  cases r with
  | get p => rfl
  | select w => simp [Request.slot] at h

/-- SEL and SELPOLY after a request in a legal state. -/
theorem serve_selection {s : State} (h : LegalSlots s.slots s.capHw) (r : Request) :
    (s.serve r).sel = selOfSlot r.slot s.capHw ∧ (s.serve r).selpoly = r.poly := by
  cases hr : r.slot with
  | known w =>
    have hbuilt : State.calculatorFor { s with poly := r.written.getD s.poly } (.known w) = w.construct s.capHw :=
      builtCalculator_of_legalSlots h w
    rw [State.serve, hr, request_eq, hbuilt, Request.poly_of_known hr]
    refine ⟨?_, construct_poly w s.capHw⟩
    cases w <;> cases s.capHw <;> rfl
  | scratch =>
    rw [State.serve, hr, request_eq, Request.written_of_scratch hr]
    refine ⟨?_, rfl⟩
    show selWord 5 false = 0x51#32
    decide

/-! ### A list of requests -/

/-- The requests change POLY, the slots, SEL, SELPOLY and STATUS, and POLY is the last value written for one of them. -/
theorem served_eq (rs : List Request) (s : State) :
    rs.foldl State.serve s =
      { s with
        poly := (rs.filterMap Request.written).getLast?.getD s.poly
        slots := (rs.foldl State.serve s).slots, sel := (rs.foldl State.serve s).sel
        selpoly := (rs.foldl State.serve s).selpoly, status := (rs.foldl State.serve s).status } := by
  induction rs using List.reverseRecOn with
  | nil => rfl
  | append_singleton rs r ih =>
    rw [List.foldl_concat, serve_eq, ih]
    cases h : r.written <;> simp [h]

theorem served_capHw (rs : List Request) (s : State) : (rs.foldl State.serve s).capHw = s.capHw := by
  rw [served_eq]

theorem LegalSlots.served {s : State} (h : LegalSlots s.slots s.capHw) (rs : List Request) :
    LegalSlots (rs.foldl State.serve s).slots (rs.foldl State.serve s).capHw := by
  induction rs generalizing s with
  | nil => exact h
  | cons r rest ih => exact ih (h.serve r)

/-- A well-known slot after the requests: constructed if one of them asked for it, else as before. -/
theorem served_known {s : State} (h : LegalSlots s.slots s.capHw) (rs : List Request) (w : WellKnown) :
    (rs.foldl State.serve s).slots.get (.known w) =
      if ∃ r ∈ rs, r.slot = .known w then some (w.construct s.capHw) else s.slots.get (.known w) := by
  induction rs using List.reverseRecOn with
  | nil => simp
  | append_singleton rs r ih =>
    rw [List.foldl_concat, serve_known (h.served rs), ih, served_capHw]
    by_cases hr : r.slot = .known w <;> simp [hr, or_and_right, exists_or]

/-- Slot 5 after the requests: the table of the last unrecognised polynomial, else as before. -/
theorem served_scratch (rs : List Request) (s : State) :
    (rs.foldl State.serve s).slots.get .scratch =
      ((rs.filterMap Request.unrecognised).getLast?.map tableCalculator).or (s.slots.get .scratch) := by
  induction rs using List.reverseRecOn with
  | nil => rfl
  | append_singleton rs r ih =>
    rw [List.foldl_concat, serve_scratch, ih]
    cases h : r.unrecognised <;> simp [h]

/-- However many requests came before the next command, it completes as if it were the first. -/
theorem served_status (rs : List Request) (s : State) :
    statusComplete .ok (rs.foldl State.serve s).status = statusComplete .ok s.status := by
  induction rs generalizing s with
  | nil => rfl
  | cons r rest ih => rw [List.foldl_cons, ih, serve_eq, statusComplete_idem]

/-- What the last request of a list leaves in SEL, SELPOLY and STATUS. -/
theorem served_last {s : State} (h : LegalSlots s.slots s.capHw) {rs : List Request} {r : Request}
    (hr : rs.getLast? = some r) :
    (rs.foldl State.serve s).sel = selOfSlot r.slot s.capHw ∧ (rs.foldl State.serve s).selpoly = r.poly ∧
      Completed .ok s.status (rs.foldl State.serve s).status := by
  obtain ⟨front, rfl⟩ := List.getLast?_eq_some_iff.1 hr
  obtain ⟨hsel, hpoly⟩ := serve_selection (h.served front) r
  rw [List.foldl_concat]
  refine ⟨by rw [hsel, served_capHw], hpoly, ?_⟩
  rw [serve_eq, served_status]
  exact completed_statusComplete .ok s.status

/-- Settles O47: the requests are a fold of `serve`, and each part of the state is read off that fold. -/
theorem slotsDependOnTheRequestsNotTheirOrder : Obligations.SlotsDependOnTheRequestsNotTheirOrder := by
  intro rs s t hs hrs
  obtain rfl := (afterRequests_iff rs s t).1 hrs
  refine ⟨fun w => ⟨fun hw => ?_, fun hnone hrs => ?_⟩, fun p hp => ?_, fun hnone => ?_, served_eq rs s,
    fun r hr => served_last hs.slots hr, fun hnil => by rw [hnil, List.foldl_nil]⟩
  · rw [served_known hs.slots, firstCalculator_eq_construct]
    split
    case isTrue => rfl
    case isFalse hnot =>
      obtain ⟨c, hc⟩ := Option.ne_none_iff_exists'.1 (hw.resolve_right hnot)
      rw [hc, hs.slots.known w c hc]
  · rw [served_known hs.slots, if_neg (by simpa using hrs), hnone]
  · rw [served_scratch, hp, Option.map_some, Option.some_or, tableCalculator]
  · rw [served_scratch, hnone, Option.map_none, Option.none_or]

end Sys2Proof.Machine
end

section
/-! Buffer memory as a command leaves it, settled: overlapped stores land in order (R55, R62; log entry 7). -/
namespace Sys2Proof.Machine

/-- An address that none of the landing stores names reads as before. -/
theorem byteAt_foldl_land_other {os : List Overlap} {a : Nat} (h : ∀ c b, Overlap.store c b ∈ os → c.toNat ≠ a)
    (m : Memory) : (os.foldl Overlap.land m).byteAt a = m.byteAt a := by
  induction os generalizing m with
  | nil => rfl
  | cons o rest ih =>
    rw [List.foldl_cons, ih fun c b hc => h c b (List.mem_cons_of_mem _ hc)]
    cases o with
    | store c b => exact Memory.byteAt_store_other b (h c b List.mem_cons_self).symm
    | access acc => rfl

/-- Settles O8: the stores after the last one to an address leave that address alone. -/
theorem overlappedStoresLand : Obligations.OverlappedStoresLand := by
  refine fun s => ⟨rfl, fun a h => byteAt_foldl_land_other h s.mem, fun pre post c b hs hpost => ?_⟩
  have hother : ∀ d e, Overlap.store d e ∈ post → d.toNat ≠ c.toNat := fun d e hd heq =>
    hpost d e hd (BitVec.eq_of_toNat_eq heq)
  rw [settle_mem, hs, List.foldl_append, List.foldl_cons, byteAt_foldl_land_other hother]
  exact Memory.byteAt_store_same _ _ b

end Sys2Proof.Machine
end

section
/-! SUPPORT. HASH in the terms of the statements: its footprint, its checks, whether it is raced, and what it does where its checks
pass, where they fail, and as a step (R54, R55, R169, R170). -/
namespace Sys2Proof.Machine

/-! ### The footprint -/

theorem hashFootprint_eq_map (s : State) : s.hashFootprint = (List.range s.len.toNat).map (s.addr.toNat + ·) :=
  List.range'_eq_map_range

theorem mem_hashFootprint (s : State) (a : Nat) : a ∈ s.hashFootprint ↔ InBuffer s a :=
  List.mem_range'_1

/-- HASH is raced exactly if some overlapped store goes into the buffer (R55). -/
theorem hashRaced_eq_true_iff (s : State) :
    s.hashRaced = true ↔ ∃ a b, Overlap.store a b ∈ s.overlap ∧ InBuffer s a.toNat := by
  have hhits (o : Overlap) : o.hits s.hashFootprint = true ↔ ∃ a b, o = .store a b ∧ InBuffer s a.toNat := by
    cases o <;> simp [Overlap.hits, mem_hashFootprint]
  simp only [State.hashRaced, List.any_eq_true, hhits]
  exact ⟨fun ⟨_, ho, a, b, heq, hin⟩ => ⟨a, b, heq ▸ ho, hin⟩, fun ⟨a, b, ho, hin⟩ => ⟨_, ho, a, b, rfl, hin⟩⟩

theorem Undisturbed.hashRaced {s : State} (h : Undisturbed s) : s.hashRaced = false := by
  rw [← Bool.not_eq_true, hashRaced_eq_true_iff]
  rintro ⟨a, b, hmem, hin⟩
  exact h a b hmem hin

/-! ### The checks -/

theorem hashOutOfRange_eq_false_iff (s : State) :
    s.hashOutOfRange = false ↔ s.len = 0 ∨ s.addr.toNat + s.len.toNat ≤ 2 ^ 32 := by
  have hzero : s.len = 0 ↔ s.len.toNat = 0 := BitVec.toNat_inj.symm
  rw [hzero, State.hashOutOfRange, decide_eq_false_iff_not, State.hashCount, State.hashStart, addressSpace]
  omega

theorem hashUnreadable_eq_false_iff (s : State) :
    s.hashUnreadable = false ↔ ∀ j, j < s.len.toNat → s.memAdmit (s.addr.toNat + j) = true := by
  simp [State.hashUnreadable, hashFootprint_eq_map]

/-- The three checks that HASH makes (R206) are those of `ChecksPass`. -/
theorem checksPass_iff (s : State) :
    ChecksPass s ↔ selValid s.sel = true ∧ s.hashOutOfRange = false ∧ s.hashUnreadable = false := by
  rw [hashOutOfRange_eq_false_iff, hashUnreadable_eq_false_iff]
  exact ⟨fun h => ⟨h.selected, h.range, h.readable⟩, fun ⟨hsel, hrange, hread⟩ => ⟨hsel, hrange, hread⟩⟩

/-! ### The command -/

theorem hashCommand_of_checksPass {s : State} (h : ChecksPass s) : s.hashCommand = s.hashBuffer := by
  obtain ⟨hsel, hrange, hread⟩ := (checksPass_iff s).1 h
  exact hashCommand_buffer hsel hrange hread

/-- A HASH whose checks fail is COMPLETE of a nonzero code, and nothing else (R207). -/
theorem hashCommand_of_not_checksPass {s : State} (h : ¬ ChecksPass s) :
    ∃ code, code ≠ .ok ∧ s.hashCommand = s.complete code := by
  obtain ⟨-, hc⟩ | ⟨-, -, hc⟩ | ⟨-, -, -, hc⟩ | ⟨hsel, hrange, hread, -⟩ := hashCommand_cases s
  · exact ⟨.noSel, by decide, hc⟩
  · exact ⟨.range, by decide, hc⟩
  · exact ⟨.bus, by decide, hc⟩
  · exact absurd ((checksPass_iff s).2 ⟨hsel, hrange, hread⟩) h

/-- Whatever RESULT becomes, the footprint has been read. -/
theorem hashBuffer_reads (s : State) : s.hashBuffer.reads = s.reads ++ s.hashFootprint := by
  obtain ⟨c, -, -, h⟩ | ⟨-, h⟩ := hashBuffer_cases s <;> rw [h]

/-- An undisturbed HASH does the same in other memory with other overlapped events, as long as the buffer holds the same bytes and
is still undisturbed. -/
theorem hashCommand_withSurroundings {s : State} {m : Memory} {os : List Overlap}
    (hbytes : ∀ a, InBuffer s a → m.byteAt a = s.mem.byteAt a) (hs : Undisturbed s)
    (hs' : Undisturbed { s with mem := m, overlap := os }) :
    State.hashCommand { s with mem := m, overlap := os } = { s.hashCommand with mem := m, overlap := os } := by
  have hdata : State.hashData { s with mem := m, overlap := os } = s.hashData :=
    List.map_congr_left fun a ha => hbytes a ((mem_hashFootprint s a).1 ha)
  obtain ⟨hsel, h⟩ | ⟨hsel, hrange, h⟩ | ⟨hsel, hrange, hread, h⟩ | ⟨hsel, hrange, hread, h⟩ := hashCommand_cases s
  · rw [h]
    exact hashCommand_noSel hsel
  · rw [h]
    exact hashCommand_range hsel hrange
  · rw [h]
    exact hashCommand_bus hsel hrange hread
  · have hbuffer : State.hashCommand { s with mem := m, overlap := os } =
        State.hashBuffer { s with mem := m, overlap := os } := hashCommand_buffer hsel hrange hread
    rw [h, hbuffer]
    cases hc : s.calculatorAt (selSlot s.sel) with
    | none =>
      rw [hashBuffer_free (.inr hc)]
      exact hashBuffer_free (.inr hc)
    | some c =>
      rw [hashBuffer_calculator hs.hashRaced hc, ← hdata]
      exact hashBuffer_calculator hs'.hashRaced hc

/-! ### The step -/

/-- A step whose event is the CMD write of HASH. -/
theorem step_of_hashNext {s : State} {rest : List BusEvent} (h : CmdWriteNext s 0x00000003#32 rest) :
    step s = .next (State.beginCommand { s with inbox := rest }).hashCommand.settle := by
  have hd : decode 0x00000003#32 = .ok .hash := by decide
  rw [step_of_cmdWriteNext h, onCmdWrite_of_decode hd, exec_hash, thenNext]

/-- The start of the command leaves the checks as they are. -/
theorem ChecksPass.beginCommand {s : State} (h : ChecksPass s) : ChecksPass s.beginCommand where
  selected := by simpa using h.selected
  range := by simpa using h.range
  readable := by simpa [State.memAdmit] using h.readable

end Sys2Proof.Machine
end

section
/-! HASH and buffer memory, settled: what it reads, what a store into the buffer does to it, and that no other byte matters
(R54, R55). -/
namespace Sys2Proof.Machine

/-! ### What is read -/

/-- A register access that starts no command reads and writes no buffer memory (R54). -/
theorem hostAccess_keeps_memory {s t : State} {acc : HostAccess} {r : HostReg} (htarget : acc.target s.base = .register r)
    (hop : r ≠ .cmd ∨ acc.op = .read) (h : s.hostAccess acc = .next t) : t.reads = s.reads ∧ t.mem = s.mem := by
  have hwrite : ∀ v, r ≠ .cmd → s.hostWrite r v = .next t → t.reads = s.reads ∧ t.mem = s.mem := by
    intro v hcmd hw
    obtain ⟨rfl, -⟩ | ⟨-, rfl⟩ := hostWrite_cases hw
    · exact absurd rfl hcmd
    · cases r <;> exact ⟨rfl, rfl⟩
  rw [State.hostAccess, htarget] at h
  cases hacc : acc.op with
  | read =>
    obtain rfl : _ = t := by simpa [hacc] using h
    exact ⟨rfl, rfl⟩
  | write v => exact hwrite v (hop.resolve_right (by simp [hacc])) (by simpa [hacc] using h)
  | writeBack => exact hwrite s.rdata (hop.resolve_right (by simp [hacc])) (by simpa [hacc] using h)

/-- Settles O19: only a HASH that goes on to its buffer adds to the read log. -/
theorem commandsReadExactlyTheFootprint : Obligations.CommandsReadExactlyTheFootprint := by
  refine ⟨fun s t acc rest r hq htarget hop h => ?_, fun i s t h => ?_⟩
  · have hacc : State.hostAccess { s with inbox := rest } acc = .next t := by simpa [step, hq, State.runEvent] using h
    exact hostAccess_keeps_memory (s := { s with inbox := rest }) htarget hop hacc
  · obtain ⟨-, -, -, -, -, -, -, hmem, -⟩ := exec_keeps_operands h
    obtain ⟨k, hi, rfl⟩ | ⟨rfl, rfl⟩ := exec_cases h
    · have hne : i ≠ .hash := by
        obtain ⟨rfl, -⟩ | ⟨w, rfl, -⟩ := hi
        · decide
        · cases w <;> decide
      exact ⟨hmem, fun heq => absurd heq hne, fun heq => absurd heq hne, fun _ => rfl⟩
    · refine ⟨hmem, fun _ hpass => ?_, fun _ hfail => ?_, fun hne => absurd rfl hne⟩
      · rw [hashCommand_of_checksPass hpass, hashBuffer_reads, hashFootprint_eq_map]
      · obtain ⟨code, -, hc⟩ := hashCommand_of_not_checksPass hfail
        rw [hc, complete_reads]

/-! ### Stores by others -/

/-- Settles O20: a raced HASH takes a free value, and an undisturbed one does as if nothing overlapped it. -/
theorem racedHashGivesAFreeValue : Obligations.RacedHashGivesAFreeValue := by
  refine ⟨fun s rest a b hnext hpass hmem hin => ?_, fun s t t' hs h h' => ?_⟩
  · have hpass' : ChecksPass { s with inbox := rest } := ⟨hpass.selected, hpass.range, hpass.readable⟩
    have hraced : (State.beginCommand { s with inbox := rest }).hashRaced = true :=
      (hashRaced_eq_true_iff _).2 ⟨a, b, by simpa using hmem, by simpa [InBuffer] using hin⟩
    refine ⟨_, step_of_hashNext hnext, ?_⟩
    rw [hashCommand_of_checksPass hpass'.beginCommand, hashBuffer_free (.inl hraced)]
    exact ⟨by simp, by simp, by simpa using completed_statusComplete .ok s.status,
      fun c hc => by simpa using byteAt_foldl_land_other hc s.mem, by simp⟩
  · obtain rfl : s.hashCommand = t := by simpa using h
    obtain rfl : State.hashCommand { s with overlap := [] } = t' := by simpa using h'
    have halone : Undisturbed { s with overlap := [] } := fun a b hmem => by simp at hmem
    rw [hashCommand_withSurroundings (m := s.mem) (fun _ _ => rfl) hs halone, ← hashCommand_mem s]

/-- Settles O21: the two commands differ in memory and in the overlapped events only. -/
theorem bytesOutsideTheBufferDoNotMatter : Obligations.BytesOutsideTheBufferDoNotMatter := by
  intro s s' t t' hs' hbytes hund hund' h h'
  obtain rfl : s.hashCommand = t := by simpa using h
  obtain rfl : s'.hashCommand = t' := by simpa using h'
  rw [hs'] at hund' ⊢
  rw [hashCommand_withSurroundings hbytes hund hund']
  exact ⟨rfl, rfl, rfl⟩

end Sys2Proof.Machine
end

section
/-! The chunks of the hardware engine, settled: they are little-endian (R11, R51). -/
namespace Sys2Proof.Machine

/-- A field put above the bits that are in use counts with the weight of its position. -/
theorem toNat_or_setWidth_shiftLeft {w n k : Nat} {lo : BitVec w} (hi : BitVec n) (hlo : lo.toNat < 2 ^ k)
    (hfit : k + n ≤ w) : (lo ||| hi.setWidth w <<< k).toNat = lo.toNat + 2 ^ k * hi.toNat := by
  have hhi : 2 ^ k * hi.toNat < 2 ^ w :=
    calc 2 ^ k * hi.toNat < 2 ^ k * 2 ^ n := Nat.mul_lt_mul_of_pos_left hi.isLt (Nat.two_pow_pos k)
      _ = 2 ^ (k + n) := (Nat.pow_add 2 k n).symm
      _ ≤ 2 ^ w := Nat.pow_le_pow_right (by decide) hfit
  rw [BitVec.toNat_or, BitVec.toNat_shiftLeft, BitVec.toNat_setWidth_of_le (by omega), Nat.shiftLeft_eq, Nat.mul_comm,
    Nat.mod_eq_of_lt hhi, Nat.or_comm, ← Nat.two_pow_add_eq_or_of_lt hlo, Nat.add_comm]

theorem chunk4_toNat (b0 b1 b2 b3 : Byte) : (chunk4 b0 b1 b2 b3).toNat = le [b0, b1, b2, b3] := by
  have h0 : (b0.setWidth 32).toNat = b0.toNat := BitVec.toNat_setWidth_of_le (by decide)
  have h1 : (b0.setWidth 32 ||| b1.setWidth 32 <<< 8).toNat = b0.toNat + 2 ^ 8 * b1.toNat := by
    rw [toNat_or_setWidth_shiftLeft b1 (by omega) (by decide), h0]
  have h2 : (b0.setWidth 32 ||| b1.setWidth 32 <<< 8 ||| b2.setWidth 32 <<< 16).toNat =
      b0.toNat + 2 ^ 8 * b1.toNat + 2 ^ 16 * b2.toNat := by
    rw [toNat_or_setWidth_shiftLeft b2 (by omega) (by decide), h1]
  rw [chunk4, toNat_or_setWidth_shiftLeft b3 (by omega) (by decide), h2]
  simp only [le]
  omega

theorem chunk8_toNat (b0 b1 b2 b3 b4 b5 b6 b7 : Byte) :
    (chunk8 b0 b1 b2 b3 b4 b5 b6 b7).toNat = le [b0, b1, b2, b3, b4, b5, b6, b7] := by
  have hlow : ((chunk4 b0 b1 b2 b3).setWidth 64).toNat = le [b0, b1, b2, b3] := by
    rw [BitVec.toNat_setWidth_of_le (by decide), chunk4_toNat]
  have hfits : ((chunk4 b0 b1 b2 b3).setWidth 64).toNat < 2 ^ 32 := by
    rw [hlow, ← chunk4_toNat]
    exact BitVec.isLt _
  rw [chunk8, toNat_or_setWidth_shiftLeft _ hfits (by decide), hlow, chunk4_toNat]
  simp only [le]
  omega

/-- Settles O39: each byte of a chunk, and each half of the 8-byte one, counts with the weight of its position. -/
theorem chunksAreLittleEndian : Obligations.ChunksAreLittleEndian :=
  ⟨chunk4_toNat, chunk8_toNat⟩

end Sys2Proof.Machine
end

section
/-! The command words, settled: decode and encode are inverse, the legal words are the seven of R74, and a CMD write of any other
word ends with ERR_ILLEGAL (R70, R72, R74, R75, R202). -/
namespace Sys2Proof

/-! ### Taking a word apart and putting it together -/

/-- The fields of R70 do not overlap: each is read back from the word made of them. -/
@[simp] theorem CommandWord.ofWord_toWord (c : CommandWord) : CommandWord.ofWord c.toWord = c := by
  obtain ⟨op, slot, rsv⟩ := c
  have hop : (toWord ⟨op, slot, rsv⟩).extractLsb' 0 4 = op := by
    ext i hi
    have hbelow : i < 7 ∧ i < 32 := by omega
    simp [toWord, hi, hbelow]
  have hslot : (toWord ⟨op, slot, rsv⟩).extractLsb' 4 3 = slot := by
    ext i hi
    have hbelow : 4 + i < 7 ∧ 4 + i < 32 ∧ i < 32 := by omega
    simp [toWord, hi, hbelow]
  have hrsv : (toWord ⟨op, slot, rsv⟩).extractLsb' 7 25 = rsv := by
    ext i hi
    have habove : 3 ≤ 7 + i - 4 ∧ 4 ≤ 7 + i ∧ 7 + i < 32 ∧ i < 32 := by omega
    simp [toWord, hi, habove]
  rw [ofWord, hop, hslot, hrsv]

theorem append_eq_zero_iff {m n : Nat} (a : BitVec m) (b : BitVec n) : a ++ b = 0 ↔ a = 0 ∧ b = 0 := by
  refine ⟨fun h => ⟨?_, ?_⟩, fun ⟨ha, hb⟩ => by simp [ha, hb]⟩
  · simpa [BitVec.extractLsb'_append_eq_left] using congrArg (BitVec.extractLsb' n m) h
  · simpa [BitVec.extractLsb'_append_eq_right] using congrArg (BitVec.extractLsb' 0 n) h

/-- Everything above OP is 0 exactly if SLOT and the reserved bits are. -/
theorem extractLsb'_above_op_eq_zero_iff (w : Word) :
    w.extractLsb' 4 28 = 0 ↔ w.extractLsb' 4 3 = 0 ∧ w.extractLsb' 7 25 = 0 := by
  have hsplit : w.extractLsb' 7 25 ++ w.extractLsb' 4 3 = w.extractLsb' 4 28 :=
    BitVec.extractLsb'_append_extractLsb'_eq_extractLsb' rfl
  rw [← hsplit, and_comm]
  exact append_eq_zero_iff _ _

/-! ### Decoding and encoding -/

/-- Every command decodes from the fields of its row. -/
@[simp] theorem decodeFields_encodeFields (i : Instr) : decodeFields (encodeFields i) = .ok i := by
  cases i <;> rfl

@[simp] theorem decode_encode (i : Instr) : decode (encode i) = .ok i := by
  rw [decode, encode, CommandWord.ofWord_toWord, decodeFields_encodeFields]

/-- A word decodes to a command exactly if it is that command's word. -/
theorem decode_eq_ok_iff {w : Word} {i : Instr} : decode w = .ok i ↔ encode i = w :=
  ⟨encode_of_decode, fun h => h ▸ decode_encode i⟩

/-- The same by fields. -/
theorem decode_eq_ok_iff_fields {w : Word} {i : Instr} : decode w = .ok i ↔ CommandWord.ofWord w = encodeFields i :=
  ⟨fun h => (encodeFields_of_decodeFields h).symm, fun h => by rw [decode, h, decodeFields_encodeFields]⟩

/-- Settles O3: the fields of a word are independent, and a row's fields decode to its command. -/
theorem decodeAndEncodeAreInverse : Obligations.DecodeAndEncodeAreInverse :=
  ⟨decode_encode, fun _ _ => encode_of_decode, CommandWord.toWord_ofWord, CommandWord.ofWord_toWord⟩

/-! ### Well-formed fields -/

/-- SLOT 0 to 4 names one of the five accessors (R72). -/
theorem Machine.WellKnown.exists_num {n : BitVec 3} (h : n.toNat ≤ 4) : ∃ k : Machine.WellKnown, k.num = n := by
  have hn : n = BitVec.ofNat 3 n.toNat := by simp
  interval_cases n.toNat
  · exact ⟨.crc32Normal, hn.symm⟩
  · exact ⟨.crc32Zip, hn.symm⟩
  · exact ⟨.crc32c, hn.symm⟩
  · exact ⟨.crc32cNormal, hn.symm⟩
  · exact ⟨.crc32cBest, hn.symm⟩

theorem encodeFields_selectInstr (k : Machine.WellKnown) :
    encodeFields (Machine.selectInstr k) = { op := 2, slot := k.num, rsv := 0 } := by
  cases k <;> rfl

/-- The well-formed fields are those of the rows of R74. -/
theorem CommandWord.wf_iff_exists_encodeFields (c : CommandWord) : c.wf = true ↔ ∃ i, encodeFields i = c := by
  refine ⟨fun h => ?_, ?_⟩
  · obtain ⟨op, slot, rsv⟩ := c
    simp only [wf, opLegal, rsvLegal, slotLegal, Bool.and_eq_true, Bool.or_eq_true, beq_iff_eq] at h
    obtain ⟨⟨(rfl | rfl) | rfl, rfl⟩, hslot⟩ := h
    · obtain rfl : slot = 0 := by simpa using hslot
      exact ⟨.get, rfl⟩
    · obtain ⟨k, rfl⟩ := Machine.WellKnown.exists_num (n := slot) (by simpa using hslot)
      exact ⟨Machine.selectInstr k, encodeFields_selectInstr k⟩
    · obtain rfl : slot = 0 := by simpa using hslot
      exact ⟨.hash, rfl⟩
  · rintro ⟨i, rfl⟩
    cases i <;> rfl

/-- Settles O4: a word decodes to the command whose row its fields are. -/
theorem wordDecodesIffFieldsWellFormed : Obligations.WordDecodesIffFieldsWellFormed := by
  intro w
  simp only [CommandWord.wf_iff_exists_encodeFields, decode_eq_ok_iff_fields, eq_comm (a := CommandWord.ofWord w)]

/-- The cases of R75: what makes fields ill formed. -/
theorem CommandWord.not_wf_iff (c : CommandWord) :
    ¬ c.wf = true ↔
      (c.op ≠ 1 ∧ c.op ≠ 2 ∧ c.op ≠ 3) ∨ c.rsv ≠ 0 ∨ ((c.op = 1 ∨ c.op = 3) ∧ c.slot ≠ 0) ∨
        (c.op = 2 ∧ 5 ≤ c.slot.toNat) := by
  obtain ⟨op, slot, rsv⟩ := c
  simp only [wf, opLegal, rsvLegal, slotLegal]
  by_cases h1 : op = 1#4
  · simp [h1, imp_iff_not_or]
  · by_cases h2 : op = 2#4
    · simp [h2, imp_iff_not_or, Nat.lt_iff_add_one_le]
    · by_cases h3 : op = 3#4
      · simp [h3, imp_iff_not_or]
      · simp [h1, h2, h3]

/-! ### The seven words -/

/-- The rows of R74 in order. -/
def Instr.rows : List Instr :=
  [.get, .selectCrc32Normal, .selectCrc32Zip, .selectCrc32c, .selectCrc32cNormal, .selectCrc32cBest, .hash]

theorem Instr.mem_rows (i : Instr) : i ∈ Instr.rows := by
  cases i <;> decide

/-- The words listed in R74 are the encodings of the rows. -/
theorem legalWords_eq_map_encode : Machine.legalWords = Instr.rows.map encode := by
  decide

/-- Settles O2: GET and HASH have zeros above OP, a SELECT has its slot there, and each row's word is what R74 lists. -/
theorem legalCommandWordsAreTheSeven : Obligations.LegalCommandWordsAreTheSeven := by
  refine ⟨fun w => ?_, fun w k => ?_, fun w => ?_, fun w i => ?_⟩
  · rw [decode_eq_ok_iff_fields, extractLsb'_above_op_eq_zero_iff, encodeFields, CommandWord.ofWord, CommandWord.mk.injEq]
  · rw [decode_eq_ok_iff_fields, encodeFields_selectInstr, CommandWord.ofWord, CommandWord.mk.injEq, and_comm (b := _ = k.num)]
  · rw [decode_eq_ok_iff_fields, extractLsb'_above_op_eq_zero_iff, encodeFields, CommandWord.ofWord, CommandWord.mk.injEq]
  · have hrows : (w, i) ∈ Instr.rows.map (fun j => (encode j, j)) ↔ encode i = w := by
      simp [Instr.mem_rows]
    rw [decode_eq_ok_iff, ← hrows]
    rfl

/-- Settles O1: the seven words are the encodings of their commands; each of the five others fails a check of format CW. -/
theorem writtenOutCommandWordsDecode : Obligations.WrittenOutCommandWordsDecode :=
  ⟨decode_encode .get, decode_encode .selectCrc32Normal, decode_encode .selectCrc32Zip, decode_encode .selectCrc32c,
    decode_encode .selectCrc32cNormal, decode_encode .selectCrc32cBest, decode_encode .hash,
    by decide, by decide, by decide, by decide, by decide⟩

/-! ### Illegal words -/

namespace Machine

theorem mem_legalWords_iff (w : Word) : w ∈ legalWords ↔ ∃ i, decode w = .ok i := by
  simp [legalWords_eq_map_encode, decode_eq_ok_iff, Instr.mem_rows]

/-- ON_CMD_WRITE of an illegal word is COMPLETE(1) alone (R170, R202). -/
theorem onCmdWrite_of_not_legal {w : Word} (h : w ∉ legalWords) (s : State) :
    s.onCmdWrite w = .next (s.beginCommand.complete .illegal).settle := by
  rw [State.onCmdWrite]
  cases hd : decode w with
  | ok i => exact absurd ((mem_legalWords_iff w).2 ⟨i, hd⟩) h
  | error r => rfl

/-- A command that does no more than complete with a code has changed STATUS only. -/
theorem onlyStatusChanged_of_complete (s : State) (rest : List BusEvent) (code : ErrCode) :
    OnlyStatusChanged s ((State.beginCommand { s with inbox := rest }).complete code).settle rest where
  block := by
    rw [beginCommand_eq]
    rfl
  bytes := fun a h => by simpa using byteAt_foldl_land_other h s.mem
  alone := fun h => by
    rw [beginCommand_alone (s := { s with inbox := rest }) h]
    simp [h]

/-- Settles O5: the words outside R74 have ill-formed fields, and a CMD write of one is COMPLETE(1). -/
theorem illegalWordEndsWithErrIllegal : Obligations.IllegalWordEndsWithErrIllegal := by
  refine fun w => ⟨?_, fun s rest hnext hw => ?_⟩
  · rw [mem_legalWords_iff, ← wordDecodesIffFieldsWellFormed w]
    exact CommandWord.not_wf_iff (CommandWord.ofWord w)
  · refine ⟨_, (step_of_cmdWriteNext hnext).trans (onCmdWrite_of_not_legal hw _), ?_, onlyStatusChanged_of_complete s rest _⟩
    simpa using completed_statusComplete .illegal s.status

end Machine
end Sys2Proof
end

section
/-! Host programs, settled: the lines of R78 and R79 expand as listed, and their transactions leave what they stand for. -/
namespace Sys2Proof.Machine

/-! ### Transactions one after the other -/

/-- A run whose first step answers a next state goes on from there. -/
theorem run_succ_of_step {s t : State} (h : step s = .next t) (k : Nat) : core.run (k + 1) s = core.run k t := by
  have hstep : core.step s = .next t := h
  simp only [Host.Core.run, hstep]

/-- The second transaction of `hash_next`: a host write of the last read's data (log entry 21). -/
theorem step_of_writeBack {s : State} {off : Nat} {r : HostReg} {rest : List BusEvent}
    (hq : s.inbox = .host { addr := .offset off, width := 4, op := .writeBack } :: rest)
    (hr : HostReg.ofOffset off = some r) (hcmd : r ≠ .cmd) :
    step s = .next (State.writeReg { s with inbox := rest } r s.rdata) := by
  simp [step, hq, State.runEvent, State.hostAccess, HostAccess.target, targetOfOffset, hr, State.hostWrite, hcmd]

/-- A run that begins with a host write at the offset of a register other than CMD. -/
theorem run_of_writeEvent {s : State} {off : Nat} {r : HostReg} {v : Word} {rest : List BusEvent}
    (hq : s.inbox = writeEvent off v :: rest) (hr : HostReg.ofOffset off = some r) (hcmd : r ≠ .cmd) (k : Nat) :
    core.run (k + 1) s = core.run k (State.writeReg { s with inbox := rest } r v) :=
  run_succ_of_step (step_of_writeEvent hq hr hcmd) k

/-! ### TBLIDX of `tbl` -/

/-- The fields that `tbl` puts together do not overlap (R32, R79). -/
theorem tblIndex_fields (k : BitVec 3) (t : BitVec 4) (i : Byte) :
    tblSrc (tblIndex k t i) = k ∧ tblSlice (tblIndex k t i) = t ∧ tblByte (tblIndex k t i) = i := by
  refine ⟨?_, ?_, ?_⟩
  · ext j hj
    have habove : 4 ≤ 12 + j - 8 ∧ 8 ≤ 12 + j ∧ 12 + j < 32 ∧ j < 32 := by omega
    simp [tblSrc, tblIndex, hj, habove]
  · ext j hj
    have hbetween : 8 + j < 12 ∧ 8 + j < 32 ∧ j < 32 := by omega
    simp [tblSlice, tblIndex, hj, hbetween]
  · ext j hj
    have hbelow : j < 12 ∧ j < 32 := by omega
    simp [tblByte, tblIndex, hj, hbelow]

/-- TBLIDX stores all of the index. -/
theorem tblidxStored_tblIndex (k : BitVec 3) (t : BitVec 4) (i : Byte) :
    tblidxStored (tblIndex k t i) = tblIndex k t i := by
  rw [tblidxStored_eq_setWidth]
  ext j hj
  by_cases hj15 : j < 15
  · simp [hj15, hj]
  · have hk : k.getLsbD (j - 12) = false := BitVec.getLsbD_of_ge _ _ (by omega)
    have ht : t.getLsbD (j - 8) = false := BitVec.getLsbD_of_ge _ _ (by omega)
    have hi : i.getLsbD j = false := BitVec.getLsbD_of_ge _ _ (by omega)
    simp [tblIndex, hj15, hk, ht, hi]

theorem SlotId.num_of_ofNum {n : BitVec 3} {j : SlotId} (h : SlotId.ofNum n = some j) : j.num = n := by
  unfold SlotId.ofNum at h
  split at h <;> rename_i hn <;> cases h <;> exact BitVec.eq_of_toNat_eq hn.symm

/-- TBLDATA is 0 where SRC names no slot that holds a table (R33). -/
theorem tblData_eq_zero {s : State}
    (h : ∀ j p T, tblSrc s.tblidx = SlotId.num j → s.slots.get j ≠ some (.table p T)) : s.tblData = 0 := by
  rw [State.tblData]
  cases hc : s.calculatorAt (tblSrc s.tblidx) with
  | none => rfl
  | some c =>
    cases c with
    | hardware p => rfl
    | table p T =>
      obtain ⟨j, hj, hslot⟩ := Option.bind_eq_some_iff.1 hc
      exact absurd hslot (h j p T (SlotId.num_of_ofNum hj).symm)

/-! ### The lines -/

theorem get_leaves {s : State} {p : Word} {rest : List BusEvent} (hq : s.inbox = (HostLine.get p).expand ++ rest) :
    core.run 1 s = .next { s with inbox := writeEvent 0x00 0x00000001#32 :: rest, poly := p } :=
  run_of_writeEvent (r := .poly) hq rfl (by decide) 0

theorem hash_leaves {s : State} {a n x : Word} {rest : List BusEvent}
    (hq : s.inbox = (HostLine.hash a n x).expand ++ rest) :
    core.run 3 s = .next { s with
      inbox := writeEvent 0x00 0x00000003#32 :: rest, addr := a, len := n, seed := x } := by
  rw [run_of_writeEvent (r := .addr) hq rfl (by decide), run_of_writeEvent (r := .len) rfl rfl (by decide),
    run_of_writeEvent (r := .seed) rfl rfl (by decide)]
  rfl

theorem hashNext_leaves {s : State} {a n : Word} {rest : List BusEvent}
    (hq : s.inbox = (HostLine.hashNext a n).expand ++ rest) :
    core.run 4 s = .next { s with
      inbox := writeEvent 0x00 0x00000003#32 :: rest, rdata := s.result, seed := s.result, addr := a, len := n } := by
  rw [run_succ_of_step (step_of_readEvent (r := .result) hq rfl),
    run_succ_of_step (step_of_writeBack (r := .seed) rfl rfl (by decide)),
    run_of_writeEvent (r := .addr) rfl rfl (by decide), run_of_writeEvent (r := .len) rfl rfl (by decide)]
  rfl

theorem tbl_leaves {s : State} {k : BitVec 3} {t : BitVec 4} {i : Byte} {rest : List BusEvent}
    (hq : s.inbox = (HostLine.tbl k t i).expand ++ rest) :
    core.run 2 s = .next { s with
      inbox := rest, tblidx := tblIndex k t i, rdata := State.tblData { s with tblidx := tblIndex k t i } } := by
  rw [run_of_writeEvent (r := .tblidx) hq rfl (by decide), run_succ_of_step (step_of_readEvent (r := .tbldata) rfl rfl),
    State.writeReg, tblidxStored_tblIndex]
  rfl

/-- Settles O60: an expansion is what its definition lists, and the transactions before a command store one operand each. -/
theorem pseudoInstructionsDoWhatTheyStandFor : Obligations.PseudoInstructionsDoWhatTheyStandFor := by
  refine ⟨HostReg.ofOffset_offset, fun _ _ => rfl, fun _ => rfl, fun _ => rfl, rfl, fun _ => rfl, fun w v hv => ?_,
    fun _ _ _ => rfl, fun _ _ => rfl, fun k t i => ⟨rfl, tblIndex_fields k t i⟩, fun _ _ _ => get_leaves,
    fun _ _ _ _ _ => hash_leaves, fun _ _ _ _ => hashNext_leaves, fun s k t i rest hq => ?_⟩
  · simp only [List.mem_cons, Prod.mk.injEq, List.not_mem_nil, or_false] at hv
    obtain ⟨rfl, rfl⟩ | ⟨rfl, rfl⟩ | ⟨rfl, rfl⟩ | ⟨rfl, rfl⟩ | ⟨rfl, rfl⟩ := hv <;>
      exact ⟨rfl, decode_eq_ok_iff.2 rfl⟩
  · obtain ⟨hsrc, hslice, hbyte⟩ := tblIndex_fields k t i
    refine ⟨_, tbl_leaves hq, rfl, fun j p T hk hslot => ?_, fun h => ?_⟩
    · have hentry := tbldataReadsTheNamedEntry.1 { s with tblidx := tblIndex k t i } j p T (hsrc.trans hk) hslot
      rwa [hslice, hbyte] at hentry
    · exact tblData_eq_zero fun j p T hj => h j p T (hsrc.symm.trans hj)

end Sys2Proof.Machine
end

section
/-! The table builder, settled: STEP1 and REDUCE8 are linear, and with it the slices of a built table (R100 to R106). -/
namespace Sys2Proof.Machine

/-! ### STEP1 (R100) -/

theorem step1_of_odd {v : Word} (h : v.getLsbD 0 = true) (p : Word) : step1 v p = (v >>> 1) ^^^ p := by
  rw [step1, if_pos h]

theorem step1_of_even {v : Word} (h : v.getLsbD 0 = false) (p : Word) : step1 v p = v >>> 1 := by
  rw [step1, if_neg (ne_true_of_eq_false h)]

@[simp] theorem step1_zero (p : Word) : step1 0#32 p = 0#32 := step1_of_even rfl p

@[simp] theorem step1_one (p : Word) : step1 1#32 p = p :=
  (step1_of_odd rfl p).trans BitVec.zero_xor

@[simp] theorem step1_zero_poly (v : Word) : step1 v 0#32 = v >>> 1 := by
  simp [step1_eq_xor]

/-- The shift is logical, so bit 31 of the result is the mask's. -/
theorem step1_bit31 (v : Word) {p : Word} (h : p.getLsbD 31 = true) : (step1 v p).getLsbD 31 = v.getLsbD 0 := by
  cases hv : v.getLsbD 0 with
  | false => simp [step1_of_even hv]
  | true => simp [step1_of_odd hv, h]

/-- STEP1 is linear: the masks of `v` and `w` cancel where both have bit 0 set. -/
theorem step1_xor (v w p : Word) : step1 (v ^^^ w) p = step1 v p ^^^ step1 w p := by
  have hmask : (if (v ^^^ w).getLsbD 0 then p else 0) =
      (if v.getLsbD 0 then p else 0) ^^^ (if w.getLsbD 0 then p else 0) := by
    rw [BitVec.getLsbD_xor]
    cases v.getLsbD 0 <;> cases w.getLsbD 0 <;> simp
  simp only [step1_eq_xor, hmask, BitVec.ushiftRight_xor_distrib]
  ac_rfl

/-- Settles O28, case by case. -/
theorem stepOneShiftsAndReduces : Obligations.StepOneShiftsAndReduces :=
  ⟨fun _ p hv => step1_of_odd hv p, fun _ p hv => step1_of_even hv p, step1_zero, step1_one, step1_zero_poly,
    fun v _ hp => step1_bit31 v hp, by decide⟩

/-! ### REDUCE8 (R101) -/

theorem stepBits_xor (n : Nat) (v w p : Word) : stepBits n (v ^^^ w) p = stepBits n v p ^^^ stepBits n w p := by
  induction n generalizing v w with
  | zero => rfl
  | succ n ih => rw [stepBits_succ, step1_xor, ih, stepBits_succ, stepBits_succ]

/-- Reduction only shifts while the bits that leave are 0. -/
theorem stepBits_of_low_zero {n : Nat} {v : Word} (h : ∀ j < n, v.getLsbD j = false) (p : Word) :
    stepBits n v p = v >>> n := by
  induction n generalizing v with
  | zero => simp [stepBits]
  | succ n ih =>
    have hshift : ∀ j < n, (v >>> 1).getLsbD j = false := fun j hj => by
      rw [BitVec.getLsbD_ushiftRight]
      exact h (1 + j) (by omega)
    rw [stepBits_succ, step1_of_even (h 0 (Nat.succ_pos n)), ih hshift, ← BitVec.shiftRight_add, Nat.add_comm]

theorem stepBits_zero_poly (n : Nat) (v : Word) : stepBits n v 0#32 = v >>> n := by
  induction n generalizing v with
  | zero => simp [stepBits]
  | succ n ih => rw [stepBits_succ, step1_zero_poly, ih, ← BitVec.shiftRight_add, Nat.add_comm]

theorem reduce8_xor (v w p : Word) : reduce8 (v ^^^ w) p = reduce8 v p ^^^ reduce8 w p := stepBits_xor 8 v w p

@[simp] theorem reduce8_zero (p : Word) : reduce8 0#32 p = 0#32 := stepBits_of_low_zero (n := 8) (by decide) p

@[simp] theorem reduce8_zero_poly (v : Word) : reduce8 v 0#32 = v >>> 8 := stepBits_zero_poly 8 v

/-- Seven shifts bring bit 7 down to bit 0, and the eighth step turns it into the polynomial. -/
theorem reduce8_bit7 (p : Word) : reduce8 0x80#32 p = p := by
  have hseven : stepBits 7 0x80#32 p = 1#32 := stepBits_of_low_zero (by decide) p
  rw [reduce8, stepBits_add 7 1, hseven]
  exact step1_one p

theorem reduce8_bit8 (p : Word) : reduce8 0x100#32 p = 1#32 := stepBits_of_low_zero (n := 8) (by decide) p

/-- A mask takes a word apart into two words with no bit in common. -/
theorem and_not_xor_and (v m : Word) : (v &&& ~~~m) ^^^ (v &&& m) = v := by
  ext j hj
  cases hv : v[j] <;> simp [hv]

/-- The three high bytes of the value are shifted down whatever the polynomial: only its low byte is reduced (R103). -/
theorem reduce8_eq_shift_xor_low (v p : Word) : reduce8 v p = (v >>> 8) ^^^ reduce8 (v &&& 0xFF#32) p := by
  have hlow : ∀ j < 8, (~~~0xFF#32).getLsbD j = false := by decide
  have hshift : (~~~0xFF#32) >>> 8 = (BitVec.allOnes 32) >>> 8 := by decide
  have hhigh : reduce8 (v &&& ~~~0xFF#32) p = v >>> 8 := by
    rw [reduce8, stepBits_of_low_zero (fun j hj => by rw [BitVec.getLsbD_and, hlow j hj, Bool.and_false]),
      BitVec.ushiftRight_and_distrib, hshift, ← BitVec.ushiftRight_and_distrib, BitVec.and_allOnes]
  calc reduce8 v p = reduce8 ((v &&& ~~~0xFF#32) ^^^ (v &&& 0xFF#32)) p := by rw [and_not_xor_and]
    _ = (v >>> 8) ^^^ reduce8 (v &&& 0xFF#32) p := by rw [reduce8_xor, hhigh]

/-- Settles O29: REDUCE8 is `stepBits 8` by definition, and linear because each of its steps is. -/
theorem reduceEightIsEightStepsAndLinear : Obligations.ReduceEightIsEightStepsAndLinear :=
  ⟨fun _ _ => rfl, reduce8_xor, reduce8_zero, reduce8_bit7, reduce8_bit8, reduce8_zero_poly, by decide⟩

/-! ### The slices of a built table (R102 to R104) -/

theorem entry_build_eq_reduce8Iter (p : Word) (t : Fin 16) (i : Byte) :
    (build p).entry t i = reduce8Iter (t.val + 1) (i.setWidth 32) p := by
  rw [entry_build, buildEntry, BitVec.ofNat_toNat]

theorem entry_build_first (p : Word) (i : Byte) : (build p).entry 0 i = reduce8 (i.setWidth 32) p :=
  entry_build_eq_reduce8Iter p 0 i

theorem entry_build_next (p : Word) (i : Byte) {t u : Fin 16} (h : u.val = t.val + 1) :
    (build p).entry u i = reduce8 ((build p).entry t i) p := by
  rw [entry_build_eq_reduce8Iter, entry_build_eq_reduce8Iter, h, reduce8Iter_succ']

@[simp] theorem reduce8Iter_zero_value (n : Nat) (p : Word) : reduce8Iter n 0#32 p = 0#32 := by
  induction n with
  | zero => rfl
  | succ n ih => rw [reduce8Iter_succ, reduce8_zero, ih]

/-- With polynomial 0 the first REDUCE8 shifts the whole byte out. -/
theorem entry_build_zero_poly (t : Fin 16) (i : Byte) : (build 0#32).entry t i = 0#32 := by
  have hout : i.setWidth 32 >>> 8 = 0#32 := by
    rw [← BitVec.setWidth_ushiftRight (by decide), BitVec.ushiftRight_eq_zero (Nat.le_refl 8), BitVec.setWidth_zero]
  rw [entry_build_eq_reduce8Iter, reduce8Iter_succ, reduce8_zero_poly, hout, reduce8Iter_zero_value]

/-- Settles O30: every entry is an iterate of REDUCE8 on the byte's value. -/
theorem buildFillsEveryEntry : Obligations.BuildFillsEveryEntry := by
  refine ⟨entry_build_first, fun p i _ _ h => entry_build_next p i h, fun p t => ?_, fun p => ?_, entry_build_zero_poly,
    ?_, ?_, ?_⟩
  · exact (entry_build_eq_reduce8Iter p t 0).trans (reduce8Iter_zero_value _ p)
  · exact (entry_build_first p 0x80).trans (reduce8_bit7 p)
  all_goals
    rw [entry_build_first]
    decide

/-- The entry of slice 0 at the low byte of a value is that byte reduced. -/
theorem entry_build_low_byte (p v : Word) : (build p).entry 0 ((v &&& 0xFF#32).setWidth 8) = reduce8 (v &&& 0xFF#32) p := by
  have hbyte : ((v &&& 0xFF#32).setWidth 8).setWidth 32 = v &&& 0xFF#32 := by
    apply BitVec.eq_of_toNat_eq
    have hle : (v &&& 0xFF#32).toNat ≤ 0xFF := Nat.and_le_right
    rw [BitVec.toNat_setWidth, BitVec.toNat_setWidth]
    omega
  rw [entry_build_first, hbyte]

/-- Settles O31: REDUCE8 of the entry before shifts its high bytes down and looks its low byte up in slice 0. -/
theorem sliceRecurrenceHolds : Obligations.SliceRecurrenceHolds := by
  intro p i t u h
  rw [entry_build_next p i h, reduce8_eq_shift_xor_low, entry_build_low_byte]

@[simp] theorem foldBytes_cons (p crc : Word) (x : Byte) (data : List Byte) :
    foldBytes p crc (x :: data) = foldBytes p (reduce8 (crc ^^^ x.setWidth 32) p) data := rfl

/-- Folding in a zero byte is one REDUCE8. -/
theorem foldBytes_replicate_zero (p crc : Word) (n : Nat) :
    foldBytes p crc (List.replicate n 0#8) = reduce8Iter n crc p := by
  induction n generalizing crc with
  | zero => rfl
  | succ n ih => rw [List.replicate_succ, foldBytes_cons, ih, reduce8Iter_succ, BitVec.setWidth_zero, BitVec.xor_zero]

/-- Settles O32: the byte is reduced once as it is folded in, and once more by each zero byte. -/
theorem sliceFoldsByteThenZeros : Obligations.SliceFoldsByteThenZeros := by
  intro p i t
  have hbyte : 0 ^^^ i.setWidth 32 = i.setWidth 32 := BitVec.zero_xor
  rw [entry_build_eq_reduce8Iter, foldBytes_cons, hbyte, foldBytes_replicate_zero, reduce8Iter_succ]

/-! ### The tables in a legal state (R106) -/

theorem resolveBest_table {capHw : Bool} {p : Word} {T : Table} (h : .table p T = resolveBest capHw) : T = build p := by
  cases capHw with
  | false =>
    cases h
    rfl
  | true => cases h

theorem construct_table {w : WellKnown} {capHw : Bool} {p : Word} {T : Table} (h : .table p T = w.construct capHw) :
    T = build p := by
  cases w with
  | crc32cBest => exact resolveBest_table h
  | _ =>
    cases h
    rfl

/-- The table of a table-backed slot is that of its polynomial. -/
theorem LegalSlots.table {t : SlotStore} {capHw : Bool} (h : LegalSlots t capHw) {k : SlotId} {p : Word} {T : Table}
    (hk : t.get k = some (.table p T)) : T = build p := by
  cases k with
  | known w => exact construct_table (h.known w _ hk)
  | scratch =>
    obtain ⟨q, hq⟩ := h.scratch _ hk
    cases hq
    rfl

/-- Settles O33: each of the two tables is BUILD of the polynomial. -/
theorem samePolynomialSameTable : Obligations.SamePolynomialSameTable := by
  intro s j k p T U hs hj hk
  have hT : T = build p := hs.slots.table hj
  have hU : U = build p := hs.slots.table hk
  exact ⟨hT.trans hU.symm, hT⟩

end Sys2Proof.Machine
end

section
/-! The loops of the engines, settled as far as what they leave over: each stops only where no whole window is left, since a list of
`n` bytes or more is its first `n` bytes and the rest (R125, R143). -/
namespace Sys2Proof.Machine

/-- Fewer elements than a window has are all left over. -/
theorem drop_windows_of_lt {α : Type} {n : Nat} {data : List α} (h : data.length < n) :
    data.drop (n * (data.length / n)) = data := by
  rw [Nat.div_eq_of_lt h, Nat.mul_zero, List.drop_zero]

/-- What is left over of a list that starts with a window is what is left over after that window. -/
theorem drop_windows_of_le {α : Type} {n : Nat} (hn : 0 < n) {data : List α} (h : n ≤ data.length) :
    data.drop (n * (data.length / n)) = (data.drop n).drop (n * ((data.drop n).length / n)) := by
  rw [List.drop_drop, List.length_drop, Nat.div_eq_sub_div hn h, Nat.mul_succ, Nat.add_comm]

theorem s16MainLoop_remainder (T : Table) (crc : Word) (data : List Byte) :
    (s16MainLoop T crc data).2 = data.drop (16 * (data.length / 16)) := by
  fun_induction s16MainLoop T crc data with
  | case1 crc b0 b1 b2 b3 b4 b5 b6 b7 b8 b9 b10 b11 b12 b13 b14 b15 rest ih =>
    rw [drop_windows_of_le (by decide) (by simp)]
    exact ih
  | case2 crc data hshort =>
    refine (drop_windows_of_lt (Nat.lt_of_not_le fun hle => ?_)).symm
    exact hshort data[0] data[1] data[2] data[3] data[4] data[5] data[6] data[7] data[8] data[9] data[10] data[11] data[12]
      data[13] data[14] data[15] (data.drop 16) (by simp only [List.getElem_cons_drop, List.drop_zero])

theorem hwLoop8_remainder (crc : Word) (data : List Byte) :
    (hwLoop8 crc data).2 = data.drop (8 * (data.length / 8)) := by
  fun_induction hwLoop8 crc data with
  | case1 crc b0 b1 b2 b3 b4 b5 b6 b7 rest ih =>
    rw [drop_windows_of_le (by decide) (by simp)]
    exact ih
  | case2 crc data hshort =>
    refine (drop_windows_of_lt (Nat.lt_of_not_le fun hle => ?_)).symm
    exact hshort data[0] data[1] data[2] data[3] data[4] data[5] data[6] data[7] (data.drop 8)
      (by simp only [List.getElem_cons_drop, List.drop_zero])

theorem hwLoop4_remainder (crc : Word) (data : List Byte) :
    (hwLoop4 crc data).2 = data.drop (4 * (data.length / 4)) := by
  fun_induction hwLoop4 crc data with
  | case1 crc b0 b1 b2 b3 rest ih =>
    rw [drop_windows_of_le (by decide) (by simp)]
    exact ih
  | case2 crc data hshort =>
    refine (drop_windows_of_lt (Nat.lt_of_not_le fun hle => ?_)).symm
    exact hshort data[0] data[1] data[2] data[3] (data.drop 4) (by simp only [List.getElem_cons_drop, List.drop_zero])

/-- Settles O35, loop by loop. -/
theorem loopsTakeWholeWindowsOnly : Obligations.LoopsTakeWholeWindowsOnly :=
  ⟨s16MainLoop_remainder, hwLoop8_remainder, hwLoop4_remainder⟩

end Sys2Proof.Machine
end

section
/-! SUPPORT. The byte steps of the reference in terms of a built table: what one byte folds in, and that the running value and the
bytes fold in apart (R104, R122, R123, R126). -/
namespace Sys2Proof.Machine

/-! ### Bytes of a word -/

theorem byteOf_shiftRight_eight (v : Word) (k : Nat) : byteOf (v >>> 8) k = byteOf v (k + 1) := by
  ext j hj
  simp [byteOf, Nat.mul_succ, Nat.add_comm, Nat.add_left_comm]

theorem byteOf_zero_eq_low (v : Word) : byteOf v 0 = (v &&& 0xFF#32).setWidth 8 := by
  have hmask : (0xFF#32).setWidth 8 = BitVec.allOnes 8 := by decide
  rw [byteOf, ← BitVec.setWidth_eq_extractLsb' (by decide), BitVec.setWidth_and, hmask, BitVec.and_allOnes]

theorem setWidth_byte_shiftRight_eight (x : Byte) : x.setWidth 32 >>> 8 = 0#32 := by
  rw [← BitVec.setWidth_ushiftRight (by decide), BitVec.ushiftRight_eq_zero (Nat.le_refl 8), BitVec.setWidth_zero]

/-! ### Entries of a table -/

theorem reduce8Iter_xor (n : Nat) (v w p : Word) :
    reduce8Iter n (v ^^^ w) p = reduce8Iter n v p ^^^ reduce8Iter n w p := by
  simp only [reduce8Iter_eq_stepBits, stepBits_xor]

theorem buildEntry_toNat (p : Word) (t : Nat) (i : Byte) :
    buildEntry p t i.toNat = reduce8Iter (t + 1) (i.setWidth 32) p := by
  rw [buildEntry, BitVec.ofNat_toNat]

/-- The entries of a slice are linear in the byte. -/
theorem buildEntry_xor (p : Word) (t : Nat) (i j : Byte) :
    buildEntry p t (i ^^^ j).toNat = buildEntry p t i.toNat ^^^ buildEntry p t j.toNat := by
  simp only [buildEntry_toNat, BitVec.setWidth_xor, reduce8Iter_xor]

/-- REDUCE8 shifts the high bytes down and looks the low byte up in slice 0. -/
theorem reduce8_eq_entry_xor_shift (v p : Word) : reduce8 v p = (build p).entry 0 (byteOf v 0) ^^^ (v >>> 8) := by
  rw [reduce8_eq_shift_xor_low, ← entry_build_low_byte, ← byteOf_zero_eq_low, BitVec.xor_comm]

/-- So `n + 1` of them look the low byte up in slice `n` and go on with the high bytes. -/
theorem reduce8Iter_succ_eq_entry_xor (n : Nat) (v p : Word) :
    reduce8Iter (n + 1) v p = buildEntry p n (byteOf v 0).toNat ^^^ reduce8Iter n (v >>> 8) p := by
  rw [reduce8Iter_succ, reduce8_eq_entry_xor_shift, reduce8Iter_xor, entry_build_first, ← reduce8Iter_succ,
    ← buildEntry_toNat]

/-- After the four bytes of a word nothing is left to reduce. -/
theorem reduce8Iter_eq_entries (n : Nat) (v p : Word) :
    reduce8Iter (n + 4) v p =
      buildEntry p (n + 3) (byteOf v 0).toNat ^^^ (buildEntry p (n + 2) (byteOf v 1).toNat ^^^
        (buildEntry p (n + 1) (byteOf v 2).toNat ^^^ buildEntry p n (byteOf v 3).toNat)) := by
  have hshift : v >>> 8 >>> 8 >>> 8 >>> 8 = 0#32 := by
    simp only [← BitVec.shiftRight_add, BitVec.ushiftRight_eq_zero (Nat.le_refl 32)]
  simp only [reduce8Iter_succ_eq_entry_xor, byteOf_shiftRight_eight, hshift, reduce8Iter_zero_value, BitVec.xor_zero]

/-! ### Folding bytes in -/

theorem foldBytes_append (p crc : Word) (x y : List Byte) :
    foldBytes p crc (x ++ y) = foldBytes p (foldBytes p crc x) y :=
  List.foldl_append

/-- The running value and the bytes fold in apart. -/
theorem foldBytes_eq_xor (p crc : Word) (data : List Byte) :
    foldBytes p crc data = reduce8Iter data.length crc p ^^^ foldBytes p 0#32 data := by
  induction data generalizing crc with
  | nil => exact BitVec.xor_zero.symm
  | cons x rest ih =>
    rw [foldBytes_cons, foldBytes_cons, BitVec.zero_xor, ih, ih (reduce8 (x.setWidth 32) p), reduce8_xor, reduce8Iter_xor,
      List.length_cons, reduce8Iter_succ, BitVec.xor_assoc]

/-- From running value 0, a byte that `t` bytes follow is looked up in slice `t`. -/
theorem foldBytes_zero_cons (p : Word) (x : Byte) (data : List Byte) :
    foldBytes p 0#32 (x :: data) = buildEntry p data.length x.toNat ^^^ foldBytes p 0#32 data := by
  rw [foldBytes_cons, foldBytes_eq_xor, BitVec.zero_xor, ← reduce8Iter_succ, ← buildEntry_toNat]

/-! ### The steps of the slice-by-16 engine -/

theorem s16Tail_build (p crc : Word) (x : Byte) : s16Tail (build p) crc x = reduce8 (crc ^^^ x.setWidth 32) p := by
  rw [reduce8_eq_entry_xor_shift, BitVec.ushiftRight_xor_distrib, setWidth_byte_shiftRight_eight, BitVec.xor_zero, s16Tail]

theorem s16Block_build (p crc : Word) (b0 b1 b2 b3 b4 b5 b6 b7 b8 b9 b10 b11 b12 b13 b14 b15 : Byte) :
    s16Block (build p) crc b0 b1 b2 b3 b4 b5 b6 b7 b8 b9 b10 b11 b12 b13 b14 b15 =
      foldBytes p crc [b0, b1, b2, b3, b4, b5, b6, b7, b8, b9, b10, b11, b12, b13, b14, b15] := by
  have hcrc : reduce8Iter 16 crc p = _ := reduce8Iter_eq_entries 12 crc p
  have hnil : foldBytes p 0#32 [] = 0#32 := rfl
  rw [foldBytes_eq_xor]
  simp only [s16Block, entry_build, buildEntry_xor, foldBytes_zero_cons, hnil, List.length_cons, List.length_nil, Nat.reduceAdd,
    hcrc, Fin.coe_ofNat_eq_mod, Nat.reduceMod, BitVec.xor_zero]
  ac_rfl

/-- Settles O34: the byte steps on a built table. -/
theorem blockAndTailAreByteSteps : Obligations.BlockAndTailAreByteSteps :=
  ⟨s16Block_build, s16Tail_build⟩

end Sys2Proof.Machine
end

section
/-! The slice-by-16 engine, settled: on a built table it is the reference CRC, so seeds compose (R126, R129). -/
namespace Sys2Proof.Machine

theorem s16TailLoop_build (p crc : Word) (data : List Byte) : s16TailLoop (build p) crc data = foldBytes p crc data := by
  have hstep : s16Tail (build p) = fun c x => reduce8 (c ^^^ x.setWidth 32) p := funext₂ (s16Tail_build p)
  rw [s16TailLoop_eq_foldl, hstep, foldBytes]

/-- The main loop leaves the byte steps of the bytes left over still to do. -/
theorem foldBytes_s16MainLoop_build (p crc : Word) (data : List Byte) :
    foldBytes p (s16MainLoop (build p) crc data).1 (s16MainLoop (build p) crc data).2 = foldBytes p crc data := by
  fun_induction s16MainLoop (build p) crc data with
  | case1 crc b0 b1 b2 b3 b4 b5 b6 b7 b8 b9 b10 b11 b12 b13 b14 b15 rest ih =>
    rw [ih, s16Block_build, ← foldBytes_append]
    rfl
  | case2 crc data => rfl

theorem s16Engine_build (p : Word) (data : List Byte) (seed : Word) :
    s16Engine (build p) data seed = ~~~(foldBytes p (~~~seed) data) := by
  rw [s16Engine, s16TailLoop_build, foldBytes_s16MainLoop_build]

/-- Settles O36: the two loops together are the byte steps of the whole string. -/
theorem sliceBy16EqualsReference : Obligations.SliceBy16EqualsReference := s16Engine_build

/-- Settles O38: the final complement of one call cancels the initial complement of the next. -/
theorem seedsCompose : Obligations.SeedsCompose := by
  intro p x y seed
  simp only [s16Engine_build, BitVec.not_not, foldBytes_append]

end Sys2Proof.Machine
end

section
/-! SUPPORT. The hardware engine is the reference CRC for CRC-32C on both tiers (R140 to R145). -/
namespace Sys2Proof.Machine

theorem crc32cU32_chunk4 (crc : Word) (b0 b1 b2 b3 : Byte) :
    crc32cU32 crc (chunk4 b0 b1 b2 b3) = foldBytes polyCrc32c crc [b0, b1, b2, b3] := by
  obtain ⟨h0, h1, h2, h3⟩ := chunk4_bytes b0 b1 b2 b3
  rw [crc32cU32, h0, h1, h2, h3]
  rfl

theorem crc32cU64_chunk8 (crc : Word) (b0 b1 b2 b3 b4 b5 b6 b7 : Byte) :
    crc32cU64 crc (chunk8 b0 b1 b2 b3 b4 b5 b6 b7) = foldBytes polyCrc32c crc [b0, b1, b2, b3, b4, b5, b6, b7] := by
  obtain ⟨hlow, hhigh⟩ := chunk8_halves b0 b1 b2 b3 b4 b5 b6 b7
  rw [crc32cU64, hlow, hhigh, crc32cU32_chunk4, crc32cU32_chunk4, ← foldBytes_append]
  rfl

theorem foldBytes_hwLoop8 (crc : Word) (data : List Byte) :
    foldBytes polyCrc32c (hwLoop8 crc data).1 (hwLoop8 crc data).2 = foldBytes polyCrc32c crc data := by
  fun_induction hwLoop8 crc data with
  | case1 crc b0 b1 b2 b3 b4 b5 b6 b7 rest ih =>
    rw [ih, crc32cU64_chunk8, ← foldBytes_append]
    rfl
  | case2 crc data => rfl

theorem foldBytes_hwLoop4 (crc : Word) (data : List Byte) :
    foldBytes polyCrc32c (hwLoop4 crc data).1 (hwLoop4 crc data).2 = foldBytes polyCrc32c crc data := by
  fun_induction hwLoop4 crc data with
  | case1 crc b0 b1 b2 b3 rest ih =>
    rw [ih, crc32cU32_chunk4, ← foldBytes_append]
    rfl
  | case2 crc data => rfl

theorem hwLoop1_eq_foldBytes (crc : Word) (data : List Byte) : hwLoop1 crc data = foldBytes polyCrc32c crc data :=
  hwLoop1_eq_foldl crc data

theorem hwEngine_eq_foldBytes (data : List Byte) (seed : Word) (wide : Bool) :
    hwEngine data seed wide = ~~~(foldBytes polyCrc32c (~~~seed) data) := by
  cases wide with
  | false => simp only [hwEngine, hwLoop1_eq_foldBytes, foldBytes_hwLoop4, Bool.false_eq_true, if_false]
  | true => simp only [hwEngine, hwLoop1_eq_foldBytes, foldBytes_hwLoop4, foldBytes_hwLoop8, if_true]

end Sys2Proof.Machine
end

section
/-! HASH and the engines, settled: in a legal state RESULT is the reference CRC for SELPOLY, and of an empty buffer it is the seed
(R126, R128, R145, R169). -/
namespace Sys2Proof.Machine

/-- A HASH whose checks pass and that nothing disturbs, on a valid slot, writes the calculator's checksum and completes. -/
theorem hashCommand_calculator {s : State} {c : Calculator} (hchecks : ChecksPass s) (hraced : s.hashRaced = false)
    (hc : s.calculatorAt (selSlot s.sel) = some c) :
    s.hashCommand.result = c.checksum s.hashData s.seed (s.capHw && s.capWide) ∧
      s.hashCommand.reads = s.reads ++ s.hashFootprint ∧ statusErr s.hashCommand.status = 0#4 := by
  rw [hashCommand_of_checksPass hchecks, hashBuffer_calculator hraced hc]
  exact ⟨rfl, rfl, (completed_statusComplete .ok s.status).err⟩

theorem hashData_eq_bufferBytes (s : State) : s.hashData = bufferBytes s := by
  rw [State.hashData, hashFootprint_eq_map, List.map_map]
  rfl

/-- R126, R145: whichever engine a legal calculator runs, it is the reference CRC for the calculator's polynomial. -/
theorem LegalSlots.checksum {t : SlotStore} {capHw : Bool} (h : LegalSlots t capHw) {k : SlotId} {c : Calculator}
    (hc : t.get k = some c) (data : List Byte) (seed : Word) (wide : Bool) :
    c.checksum data seed wide = ~~~(foldBytes c.poly (~~~seed) data) := by
  cases c with
  | table p T =>
    obtain rfl := h.table hc
    exact s16Engine_build p data seed
  | hardware p =>
    obtain ⟨-, -, hp⟩ := h.hardware hc rfl
    rw [hp]
    exact hwEngine_eq_foldBytes data seed wide

/-- Settles O22: a legal selection names a legal calculator, and SELPOLY is its polynomial. -/
theorem hashIsTheReferenceCrcOfSelpoly : Obligations.HashIsTheReferenceCrcOfSelpoly := by
  intro s hs hchecks hquiet
  obtain ⟨hinvalid, -⟩ | ⟨k, c, hget, hat, -, -, -, hpoly⟩ := hs.selection.cases
  · exact absurd hchecks.selected (by simp [hinvalid])
  · obtain ⟨hresult, -, herr⟩ := hashCommand_calculator hchecks hquiet.hashRaced hat
    refine ⟨_, exec_hash s, ?_, herr⟩
    rw [hresult, hs.slots.checksum hget, hpoly, hashData_eq_bufferBytes]

theorem s16Engine_nil (T : Table) (seed : Word) : s16Engine T [] seed = seed := BitVec.not_not

theorem hwEngine_nil (seed : Word) (wide : Bool) : hwEngine [] seed wide = seed := by
  rw [hwEngine_eq_foldBytes]
  exact BitVec.not_not

theorem checksum_nil (c : Calculator) (seed : Word) (wide : Bool) : c.checksum [] seed wide = seed := by
  cases c with
  | table p T => exact s16Engine_nil T seed
  | hardware p => exact hwEngine_nil seed wide

theorem hashFootprint_of_len_zero {s : State} (h : s.len = 0) : s.hashFootprint = [] := by
  rw [hashFootprint_eq_map, h]
  rfl

/-- With LEN = 0 no address is read, so only the selection is checked. -/
theorem checksPass_of_len_zero {s : State} (hvalid : selValid s.sel = true) (h : s.len = 0) : ChecksPass s where
  selected := hvalid
  range := .inl h
  readable := by simp [h]

/-- With LEN = 0 no store goes into the buffer. -/
theorem undisturbed_of_len_zero {s : State} (h : s.len = 0) : Undisturbed s := by
  intro a b _ hin
  rw [← mem_hashFootprint, hashFootprint_of_len_zero h] at hin
  cases hin

/-- Settles O18: HASH with LEN = 0 passes its checks, cannot be disturbed, and takes the checksum of no bytes. -/
theorem emptyBufferGivesTheSeed : Obligations.EmptyBufferGivesTheSeed := by
  refine ⟨s16Engine_nil, hwEngine_nil, fun s c hvalid hlen hc => ?_⟩
  obtain ⟨hresult, hreads, herr⟩ := hashCommand_calculator (checksPass_of_len_zero hvalid hlen)
    (undisturbed_of_len_zero hlen).hashRaced hc
  refine ⟨_, exec_hash s, ?_, herr, ?_⟩
  · rw [hresult, State.hashData, hashFootprint_of_len_zero hlen]
    exact checksum_nil c s.seed _
  · rw [hreads, hashFootprint_of_len_zero hlen, List.append_nil]

end Sys2Proof.Machine
end

section
/-! The native steps, settled: each is bits of reduction of the running value and its chunk, the hardware engine equals the
slice-by-16 engine, and only the native steps make it so (R140 to R145). -/
namespace Sys2Proof.Machine

/-! ### The steps as bits of reduction -/

/-- Folding the four bytes of a word in, lowest first, is 32 bits of reduction of the running value and the word. -/
theorem foldBytes_word (p crc w : Word) :
    foldBytes p crc [byteOf w 0, byteOf w 1, byteOf w 2, byteOf w 3] = stepBits 32 (crc ^^^ w) p := by
  have hw : foldBytes p 0#32 [byteOf w 0, byteOf w 1, byteOf w 2, byteOf w 3] = reduce8Iter 4 w p := by
    have hnil : foldBytes p 0#32 [] = 0#32 := rfl
    simp only [foldBytes_zero_cons, hnil, BitVec.xor_zero]
    exact (reduce8Iter_eq_entries 0 w p).symm
  calc foldBytes p crc [byteOf w 0, byteOf w 1, byteOf w 2, byteOf w 3]
      = reduce8Iter 4 crc p ^^^ reduce8Iter 4 w p := by rw [foldBytes_eq_xor, hw]; rfl
    _ = stepBits 32 (crc ^^^ w) p := by rw [← reduce8Iter_xor, reduce8Iter_eq_stepBits]

theorem crc32cU32_eq_stepBits (crc w : Word) : crc32cU32 crc w = stepBits 32 (crc ^^^ w) polyCrc32c :=
  foldBytes_word polyCrc32c crc w

theorem crc32cU64_eq_stepBits (crc : Word) (q : BitVec 64) :
    crc32cU64 crc q =
      stepBits 32 (stepBits 32 (crc ^^^ q.extractLsb' 0 32) polyCrc32c ^^^ q.extractLsb' 32 32) polyCrc32c := by
  rw [crc32cU64, crc32cU32_eq_stepBits, crc32cU32_eq_stepBits]

/-- Settles O40: the 4-byte step folds the bytes of its chunk in, and the 8-byte step is two of them. -/
theorem nativeStepsAreBitReductions : Obligations.NativeStepsAreBitReductions :=
  ⟨crc32cU32_eq_stepBits, crc32cU64_eq_stepBits⟩

/-! ### The steps are determined by the reference -/

/-- Every 4-byte chunk is made of its bytes. -/
theorem exists_eq_chunk4 (w : BitVec 32) : ∃ b0 b1 b2 b3, w = chunk4 b0 b1 b2 b3 := by
  refine ⟨w.extractLsb' 0 8, w.extractLsb' 8 8, w.extractLsb' 16 8, w.extractLsb' 24 8, BitVec.eq_of_toNat_eq ?_⟩
  simp only [chunk4_toNat, le, BitVec.extractLsb'_toNat, Nat.shiftRight_eq_div_pow]
  omega

/-- Every 8-byte chunk is made of its bytes. -/
theorem exists_eq_chunk8 (q : BitVec 64) : ∃ b0 b1 b2 b3 b4 b5 b6 b7, q = chunk8 b0 b1 b2 b3 b4 b5 b6 b7 := by
  refine ⟨q.extractLsb' 0 8, q.extractLsb' 8 8, q.extractLsb' 16 8, q.extractLsb' 24 8, q.extractLsb' 32 8,
    q.extractLsb' 40 8, q.extractLsb' 48 8, q.extractLsb' 56 8, BitVec.eq_of_toNat_eq ?_⟩
  simp only [chunk8_toNat, le, BitVec.extractLsb'_toNat, Nat.shiftRight_eq_div_pow]
  omega

/-- A step that gives the reference from every seed gives the byte steps on every running value: complement is a bijection. -/
theorem eq_foldBytes_of_eq_reference {g : Word → Word} {p : Word} {data : List Byte}
    (hg : ∀ seed, ~~~(g (~~~seed)) = ~~~(foldBytes p (~~~seed) data)) (crc : Word) : g crc = foldBytes p crc data := by
  have hnot : ~~~(g crc) = ~~~(foldBytes p crc data) := by simpa only [BitVec.not_not] using hg (~~~crc)
  exact BitVec.not_inj.1 hnot

/-- Settles O37: both engines are the reference CRC; and a step that gives it on the chunk of any bytes does so on every chunk. -/
theorem hardwareEqualsSliceBy16 : Obligations.HardwareEqualsSliceBy16 := by
  refine ⟨fun data seed wide => ⟨?_, hwEngine_eq_foldBytes data seed wide⟩, fun f hf crc x => ?_, fun f hf crc w => ?_,
    fun f hf crc q => ?_⟩
  · exact (hwEngine_eq_foldBytes data seed wide).trans (s16Engine_build polyCrc32c data seed).symm
  · exact eq_foldBytes_of_eq_reference (g := (f · x)) (hf · x) crc
  · obtain ⟨b0, b1, b2, b3, rfl⟩ := exists_eq_chunk4 w
    rw [crc32cU32_chunk4]
    exact eq_foldBytes_of_eq_reference (g := (f · (chunk4 b0 b1 b2 b3))) (hf · b0 b1 b2 b3) crc
  · obtain ⟨b0, b1, b2, b3, b4, b5, b6, b7, rfl⟩ := exists_eq_chunk8 q
    rw [crc32cU64_chunk8]
    exact eq_foldBytes_of_eq_reference (g := (f · (chunk8 b0 b1 b2 b3 b4 b5 b6 b7))) (hf · b0 b1 b2 b3 b4 b5 b6 b7) crc

end Sys2Proof.Machine
end

section
/-! The start and the end of a command, settled (R170, R171). -/
namespace Sys2Proof.Machine

/-- The start of a command sets BUSY, clears DONE and keeps the other bits of STATUS. -/
theorem statusBegin_fields (st : Word) :
    statusBusy (statusBegin st) = true ∧ statusDone (statusBegin st) = false ∧
      statusBegin st &&& 0xFFFFFFFC#32 = st &&& 0xFFFFFFFC#32 := by
  refine ⟨?_, ?_, ?_⟩
  · simp [statusBusy, statusBegin]
  · simp [statusDone, statusBegin]
  · simp [statusBegin, BitVec.and_or_distrib_right, BitVec.and_assoc]

/-- Settles O7: the overlapped accesses change the read data only, so STATUS is as `statusBegin` leaves it. -/
theorem commandStartRaisesBusy : Obligations.CommandStartRaisesBusy := by
  intro s
  obtain ⟨hbusy, hdone, hother⟩ := statusBegin_fields s.status
  rw [beginCommand_status]
  exact ⟨hbusy, hdone, hother, beginCommand_eq s, fun h => by rw [beginCommand_alone h]⟩

/-- Settles O24: COMPLETE is `statusComplete` on STATUS. -/
theorem completeWritesStatusFields : Obligations.CompleteWritesStatusFields :=
  fun code s => ⟨completed_statusComplete code s.status, rfl⟩

end Sys2Proof.Machine
end

section
/-! GET and SELECT, settled: the mux, and what a request of a slot leaves behind (R162 to R168). -/
namespace Sys2Proof.Machine

/-! ### The mux -/

theorem mux_polyCrc32c : mux polyCrc32c = .known .crc32cBest := by decide

theorem mux_of_not_known {p : Word} (h0 : p ≠ polyCrc32Normal) (h1 : p ≠ polyCrc32Zip) (h4 : p ≠ polyCrc32c)
    (h3 : p ≠ polyCrc32cNormal) : mux p = .scratch := by
  rw [mux, if_neg h0, if_neg h1, if_neg h4, if_neg h3]

/-- MUX never answers slot 2: its polynomial is that of slot 4, which MUX prefers. -/
theorem mux_ne_crc32c (p : Word) : mux p ≠ .known .crc32c := by
  intro h
  rw [mux_known_poly h] at h
  cases mux_polyCrc32c.symm.trans h

/-- Settles O12: each listed value is compared exactly, and slot 2 is never chosen. -/
theorem muxChoosesByExactValue : Obligations.MuxChoosesByExactValue :=
  ⟨by decide, by decide, mux_polyCrc32c, by decide, fun _ => mux_of_not_known, mux_ne_crc32c⟩

/-! ### A request -/

/-- A request leaves RESULT, the read log and the counter of free values alone, beside what every command does. -/
theorem request_selectFrame (s : State) (k : SlotId) : SelectFrame s (s.request k) := by
  rw [request_eq]
  exact {
    poly := rfl, seed := rfl, addr := rfl, len := rfl, tblidx := rfl, capHw := rfl, capWide := rfl, strapHw := rfl
    strapWide := rfl, base := rfl, admits := rfl, bytes := fun _ => ⟨rfl, rfl⟩, inbox := rfl, overlap := rfl
    rdata := rfl, result := rfl, reads := rfl, draws := rfl }

/-- A request of a slot leaves it holding its calculator and selected, the command completed, and the rest as it was. -/
theorem request_selected (s : State) (k : SlotId) : Selected s (s.request k) k (s.calculatorFor k) where
  slot := SlotStore.get_set_same _ _ _
  otherSlots := fun _ hj => request_get_other hj
  valid := selValid_selWord _ _
  hw := selHw_selWord _ _
  slotField := selSlot_selWord _ _
  reserved := selWord_reserved _ _
  selpoly := rfl
  status := completed_statusComplete .ok s.status
  frame := request_selectFrame s k

/-- A valid well-known slot keeps its calculator, and an invalid one gets the first. -/
theorem calculatorFor_known (s : State) (w : WellKnown) :
    (∀ d, s.slots.get (.known w) = some d → s.calculatorFor (.known w) = d) ∧
      (s.slots.get (.known w) = none → s.calculatorFor (.known w) = firstCalculator w s.capHw) :=
  ⟨fun _ hd => builtCalculator_of_some hd,
    fun hnone => (builtCalculator_of_none hnone).trans (firstCalculator_eq_construct w s.capHw).symm⟩

theorem selHw_selAfter_crc32cBest (capHw : Bool) : selHw (selAfter .crc32cBest capHw) = capHw := by
  cases capHw <;> decide

/-- Settles O13: GET is a request of the slot MUX chooses, which is slot 4 for CRC-32C. -/
theorem getSelectsThePolynomialsCalculator : Obligations.GetSelectsThePolynomialsCalculator := by
  refine ⟨fun w => decode_eq_ok_iff.trans eq_comm,
    fun s => ⟨_, _, exec_get_eq_request s, request_selected s _, fun hmux => ?_, fun w hmux => ?_, fun hs => ?_⟩⟩
  · rw [hmux]
    rfl
  · rw [hmux]
    exact calculatorFor_known s w
  · obtain ⟨hsel, hpoly⟩ : (s.request (mux s.poly)).sel = selOfSlot (mux s.poly) s.capHw ∧
        (s.request (mux s.poly)).selpoly = s.poly := serve_selection hs.slots (.get s.poly)
    refine ⟨hpoly, fun hp => ?_⟩
    have hmux : mux s.poly = .known .crc32cBest := (congrArg mux hp).trans mux_polyCrc32c
    rw [hsel, hmux]
    exact selHw_selAfter_crc32cBest s.capHw

theorem encode_selectInstr (w : WellKnown) : encode (selectInstr w) = w.command := by
  cases w <;> decide

/-- Settles O14: a SELECT is a request of its own slot. -/
theorem selectSelectsTheNamedCalculator : Obligations.SelectSelectsTheNamedCalculator := by
  refine ⟨fun w v => ?_, fun s w => ?_⟩
  · rw [decode_eq_ok_iff, encode_selectInstr, eq_comm]
  · obtain ⟨hvalid, hinvalid⟩ := calculatorFor_known s w
    exact ⟨_, _, exec_select_eq_request s w, request_selected s _, hvalid, hinvalid,
      fun hs => serve_selection hs.slots (.select w)⟩

end Sys2Proof.Machine
end

section
/-! HASH and the completion of every command, settled (R169 to R172, R201). -/
namespace Sys2Proof.Machine

theorem hashCommand_hashFrame (s : State) : HashFrame s s.hashCommand := by
  rw [hashCommand_eq]
  exact {
    poly := rfl, seed := rfl, addr := rfl, len := rfl, tblidx := rfl, capHw := rfl, capWide := rfl, strapHw := rfl
    strapWide := rfl, base := rfl, admits := rfl, bytes := fun _ => ⟨rfl, rfl⟩, inbox := rfl, overlap := rfl
    rdata := rfl, sel := rfl, selpoly := rfl, slots := rfl }

/-- Settles O15: SEL names the slot's calculator, and RESULT is its checksum of the buffer. -/
theorem hashWritesTheCalculatorsChecksum : Obligations.HashWritesTheCalculatorsChecksum := by
  intro s k c hchecks hquiet hsel hslot
  have hc : s.calculatorAt (selSlot s.sel) = some c := by rw [hsel, calculatorAt_num, hslot]
  have hframe := hashCommand_hashFrame s
  refine ⟨_, exec_hash s, ?_⟩
  rw [hashCommand_of_checksPass hchecks, hashBuffer_calculator hquiet.hashRaced hc, hashData_eq_bufferBytes] at hframe ⊢
  exact ⟨by cases c <;> rfl, completed_statusComplete .ok s.status, hframe, rfl⟩

/-- R126, R145: RESULT of an undisturbed HASH in a legal state, as an equation. -/
theorem result_of_exec_hash {s t : State} (hs : s.Inv) (hchecks : ChecksPass s) (hquiet : Undisturbed s)
    (h : exec .hash s = .next t) : t.result = ~~~(foldBytes s.selpoly (~~~s.seed) (bufferBytes s)) := by
  obtain ⟨u, hu, hresult, -⟩ := hashIsTheReferenceCrcOfSelpoly s hs hchecks hquiet
  obtain rfl : t = u := by simpa using h.symm.trans hu
  exact hresult

/-- In a legal state with a well-known slot selected, SELPOLY is that slot's polynomial. -/
theorem State.Inv.selpoly_of_selSlot {s : State} {w : WellKnown} (hs : s.Inv) (hvalid : selValid s.sel = true)
    (hslot : selSlot s.sel = SlotId.num (.known w)) : s.selpoly = w.poly := by
  obtain ⟨hinvalid, -⟩ | ⟨k, c, -, hat, -, -, -, hpoly⟩ := hs.selection.cases
  · simp [hinvalid] at hvalid
  · rw [hslot, calculatorAt_num] at hat
    rw [hpoly, hs.slots.known w c hat, construct_poly]

/-- Settles O23: RESULT depends on SELPOLY, the buffer and the seed only, and slots 2 and 4 have one polynomial. -/
theorem samePolynomialSameResult : Obligations.SamePolynomialSameResult := by
  intro s s' t t' hs hs' hchecks hchecks' hquiet hquiet' hbytes hseed h h'
  have hsame : s'.selpoly = s.selpoly → t'.result = t.result := fun hpoly => by
    rw [result_of_exec_hash hs hchecks hquiet h, result_of_exec_hash hs' hchecks' hquiet' h', hpoly, hseed, hbytes]
  refine ⟨fun ⟨htwo, hfour⟩ => hsame ?_, hsame⟩
  have hpoly : s.selpoly = polyCrc32c := hs.selpoly_of_selSlot (w := .crc32c) hchecks.selected htwo
  have hpoly' : s'.selpoly = polyCrc32c := hs'.selpoly_of_selSlot (w := .crc32cBest) hchecks'.selected hfour
  rw [hpoly', hpoly]

/-- Settles O26: a request completes with 0, and HASH with one of its codes. -/
theorem everyCommandCompletes : Obligations.EveryCommandCompletes := by
  intro i s
  obtain ⟨t, h⟩ := exec_total i s
  obtain ⟨k, -, rfl⟩ | ⟨rfl, rfl⟩ := exec_cases h
  · exact ⟨_, .ok, h, (request_selected s k).status, (request_selectFrame s k).toCommandFrame, fun hne => absurd rfl hne⟩
  · obtain ⟨code, hstatus, -⟩ := hashCommand_completes s
    exact ⟨_, code, h, hstatus ▸ completed_statusComplete code s.status, (hashCommand_hashFrame s).toCommandFrame,
      fun _ => rfl⟩

end Sys2Proof.Machine
end

section
/-! SUPPORT. The code a command completes with, said once: the first check that fails gives it, and a command that ends with a
nonzero code is COMPLETE of that code and nothing else (R202 to R207). -/
namespace Sys2Proof.Machine

/-! ### HASH -/

/-- The code of the first check of HASH that fails (R206). -/
def State.hashCode (s : State) : ErrCode :=
  if selValid s.sel = false then .noSel
  else if s.hashOutOfRange then .range
  else if s.hashUnreadable then .bus
  else .ok

/-- HASH is COMPLETE of its code where a check fails, and goes on to its buffer where none does. -/
theorem hashCommand_eq_complete_or_buffer (s : State) :
    s.hashCommand = if s.hashCode = .ok then s.hashBuffer else s.complete s.hashCode := by
  obtain ⟨hsel, h⟩ | ⟨hsel, hrange, h⟩ | ⟨hsel, hrange, hread, h⟩ | ⟨hsel, hrange, hread, h⟩ := hashCommand_cases s
  · simp [h, State.hashCode, hsel]
  · simp [h, State.hashCode, hsel, hrange]
  · simp [h, State.hashCode, hsel, hrange, hread]
  · simp [h, State.hashCode, hsel, hrange, hread]

theorem hashBuffer_status (s : State) : s.hashBuffer.status = statusComplete .ok s.status := by
  obtain ⟨c, -, -, h⟩ | ⟨-, h⟩ := hashBuffer_cases s <;> rw [h]

theorem hashCommand_status (s : State) : s.hashCommand.status = statusComplete s.hashCode s.status := by
  rw [hashCommand_eq_complete_or_buffer]
  split
  case isTrue hok => rw [hok, hashBuffer_status]
  case isFalse => rfl

theorem ChecksPass.hashCode {s : State} (h : ChecksPass s) : s.hashCode = .ok := by
  obtain ⟨hsel, hrange, hread⟩ := (checksPass_iff s).1 h
  simp [State.hashCode, hsel, hrange, hread]

/-- The start of the command leaves HASH's checks, and so its code, as they are. -/
@[simp] theorem hashCode_beginCommand (s : State) : s.beginCommand.hashCode = s.hashCode := by
  rw [beginCommand_eq]
  rfl

theorem hashOutOfRange_eq_true_iff (s : State) :
    s.hashOutOfRange = true ↔ 0 < s.len.toNat ∧ s.addr.toNat + s.len.toNat > 2 ^ 32 :=
  decide_eq_true_iff

theorem hashUnreadable_eq_any (s : State) :
    s.hashUnreadable = (List.range s.len.toNat).any (fun j => !s.memAdmit (s.addr.toNat + j)) := by
  rw [State.hashUnreadable, hashFootprint_eq_map, List.any_map]
  rfl

/-- The number of HASH's code in terms of ADDR, LEN and MEM_ADMIT (R203 to R205). -/
theorem errNumber_hashCode (s : State) :
    errNumber s.hashCode =
      if selValid s.sel = false then 2#4
      else if 0 < s.len.toNat ∧ s.addr.toNat + s.len.toNat > 2 ^ 32 then 3#4
      else if (List.range s.len.toNat).any (fun j => !s.memAdmit (s.addr.toNat + j)) then 4#4
      else 0#4 := by
  simp only [State.hashCode, hashOutOfRange_eq_true_iff, hashUnreadable_eq_any]
  split_ifs <;> rfl

/-! ### Every command -/

/-- The code a command completes with: only HASH can fail. -/
def State.instrCode (s : State) (i : Instr) : ErrCode := if i = .hash then s.hashCode else .ok

/-- The code that a CMD write of a word completes with (R202, R206). -/
def State.wordCode (s : State) (w : Word) : ErrCode :=
  match decode w with
  | .error _ => .illegal
  | .ok i => s.instrCode i

theorem instrCode_of_ne_hash {i : Instr} (s : State) (h : i ≠ .hash) : s.instrCode i = .ok := if_neg h

/-- Every command completes with its code, and where that is not 0 it does nothing else (R207). -/
theorem exec_completes {i : Instr} {s t : State} (h : exec i s = .next t) :
    t.status = statusComplete (s.instrCode i) s.status ∧ (s.instrCode i ≠ .ok → t = s.complete (s.instrCode i)) := by
  by_cases hi : i = .hash
  · subst hi
    obtain rfl : s.hashCommand = t := by simpa using h
    exact ⟨hashCommand_status s, fun hne => (hashCommand_eq_complete_or_buffer s).trans (if_neg hne)⟩
  · obtain ⟨k, -, rfl⟩ | ⟨hhash, -⟩ := exec_cases h
    · rw [instrCode_of_ne_hash s hi]
      exact ⟨rfl, fun hok => absurd rfl hok⟩
    · exact absurd hhash hi

/-- Every CMD write completes with its code, and where that is not 0 it does nothing else (R202, R207). -/
theorem onCmdWrite_completes {s t : State} {w : Word} (h : s.onCmdWrite w = .next t) :
    t.status = statusComplete (s.wordCode w) s.status ∧
      (s.wordCode w ≠ .ok → t = (s.beginCommand.complete (s.wordCode w)).settle) := by
  obtain ⟨i, u, hd, hu, rfl⟩ | ⟨r, hd, rfl⟩ := onCmdWrite_cases h
  · have hcode : s.beginCommand.instrCode i = s.wordCode w := by
      simp only [State.wordCode, hd, State.instrCode, hashCode_beginCommand]
    obtain ⟨hstatus, herring⟩ := exec_completes hu
    rw [hcode] at hstatus herring
    exact ⟨by simpa using hstatus, fun hne => by rw [herring hne]⟩
  · have hcode : s.wordCode w = .illegal := by rw [State.wordCode, hd]
    rw [hcode]
    exact ⟨by simp, fun _ => rfl⟩

/-- A step whose event is a CMD write completes with the word's code, and where that is not 0 has changed STATUS only. -/
theorem step_completes {s t : State} {w : Word} {rest : List BusEvent} (hnext : CmdWriteNext s w rest)
    (h : step s = .next t) :
    t.status = statusComplete (s.wordCode w) s.status ∧ (s.wordCode w ≠ .ok → OnlyStatusChanged s t rest) := by
  rw [step_of_cmdWriteNext hnext] at h
  obtain ⟨hstatus, herring⟩ := onCmdWrite_completes h
  refine ⟨hstatus, fun hne => ?_⟩
  rw [herring hne]
  exact onlyStatusChanged_of_complete s rest _

end Sys2Proof.Machine
end

section
/-! Errors, settled: the code a command reports, what an erring command writes, and ERRSEEN (R203 to R208). -/
namespace Sys2Proof.Machine

/-- Settles O16: each failing check is COMPLETE of its code, with the checks read off ADDR, LEN and MEM_ADMIT. -/
theorem failingHashWritesStatusOnly : Obligations.FailingHashWritesStatusOnly := by
  intro s
  have hcompletes (code : ErrCode) (h : s.hashCommand = s.complete code) :
      ∃ st, exec .hash s = .next { s with status := st } ∧ Completed code s.status st :=
    ⟨_, (exec_hash s).trans (congrArg _ h), completed_statusComplete code s.status⟩
  refine ⟨fun hsel => hcompletes _ (hashCommand_noSel hsel), fun hsel hlen hwrap => ?_, fun hsel hfits hbad => ?_⟩
  · have hpos : 0 < s.len.toNat := Nat.pos_of_ne_zero fun hzero => hlen (BitVec.eq_of_toNat_eq hzero)
    exact hcompletes _ (hashCommand_range hsel ((hashOutOfRange_eq_true_iff s).2 ⟨hpos, hwrap⟩))
  · have hunreadable : s.hashUnreadable = true := by simpa [hashUnreadable_eq_any] using hbad
    exact hcompletes _ (hashCommand_bus hsel ((hashOutOfRange_eq_false_iff s).2 (.inr hfits)) hunreadable)

/-- Settles O17: ERR is the number of the word's code, and the code is that of the first check that fails. -/
theorem firstFailingCheckGivesTheCode : Obligations.FirstFailingCheckGivesTheCode := by
  intro s w rest hnext
  obtain ⟨t, ht⟩ := onCmdWrite_total { s with inbox := rest } w
  have h : step s = .next t := (step_of_cmdWriteNext hnext).trans ht
  obtain ⟨hstatus, -⟩ := step_completes hnext h
  refine ⟨t, h, ?_⟩
  rw [hstatus, (completed_statusComplete _ _).err, State.wordCode]
  cases decode w with
  | error r => rfl
  | ok i =>
    cases i with
    | hash => exact errNumber_hashCode s
    | _ => rfl

/-- A STATUS that shows an error completed with a nonzero code, so it also shows ERRSEEN and the end of the command. -/
theorem errFields_of_statusErr_ne_zero {code : ErrCode} {before : Word}
    (h : statusErr (statusComplete code before) ≠ 0#4) :
    code ≠ .ok ∧ statusErrSeen (statusComplete code before) = true ∧
      statusBusy (statusComplete code before) = false ∧ statusDone (statusComplete code before) = true := by
  have hfields := completed_statusComplete code before
  have hne : code ≠ .ok := by
    rintro rfl
    exact h hfields.err
  exact ⟨hne, by simp [hfields.seen, hne], hfields.busy, hfields.done⟩

/-- Settles O25: a nonzero ERR is a nonzero code, and with one the command is COMPLETE alone. -/
theorem erringCommandWritesStatusOnly : Obligations.ErringCommandWritesStatusOnly := by
  refine ⟨fun i s t h herr => ?_, fun s t w rest hnext h herr => ?_⟩
  · obtain ⟨hstatus, herring⟩ := exec_completes h
    rw [hstatus] at herr
    obtain ⟨hne, hfields⟩ := errFields_of_statusErr_ne_zero herr
    refine ⟨?_, hstatus ▸ hfields⟩
    rw [herring hne]
    rfl
  · obtain ⟨hstatus, herring⟩ := step_completes hnext h
    rw [hstatus] at herr
    obtain ⟨hne, hfields⟩ := errFields_of_statusErr_ne_zero herr
    exact ⟨herring hne, hstatus ▸ hfields⟩

/-- COMPLETE never clears ERRSEEN, whatever the code (R171). -/
theorem statusErrSeen_statusComplete_of_seen {before : Word} (h : statusErrSeen before = true) (code : ErrCode) :
    statusErrSeen (statusComplete code before) = true := by
  rw [(completed_statusComplete code before).seen, h, Bool.true_or]

/-- A command that succeeds clears ERR and keeps ERRSEEN (R208). -/
theorem exec_success_keeps_errSeen {i : Instr} {s t : State} (h : exec i s = .next t) (hcode : s.instrCode i = .ok)
    (hseen : statusErrSeen s.status = true) : statusErr t.status = 0#4 ∧ statusErrSeen t.status = true := by
  obtain ⟨hstatus, -⟩ := exec_completes h
  rw [hstatus, hcode]
  exact ⟨(completed_statusComplete .ok _).err, statusErrSeen_statusComplete_of_seen hseen .ok⟩

/-- Settles O27: an event that is no command and no reset keeps STATUS, a command completes it, and a reset clears it. -/
theorem errSeenIsSticky : Obligations.ErrSeenIsSticky := by
  refine ⟨fun s t h hseen => ?_, fun s t e rest hq hreset h => ?_,
    fun i s t h hne => exec_success_keeps_errSeen h (instrCode_of_ne_hash s hne),
    fun s t h hpass => exec_success_keeps_errSeen h hpass.hashCode⟩
  · obtain ⟨-, rfl⟩ | ⟨e, rest, hq, -⟩ := step_cases h
    · exact .inl hseen
    · obtain ⟨-, hquiet⟩ | ⟨-, w, hnext, -⟩ | ⟨hreset, -⟩ := step_effect hq h
      · exact .inl (hquiet.status ▸ hseen)
      · exact .inl ((step_completes hnext h).1 ▸ statusErrSeen_statusComplete_of_seen hseen _)
      · exact .inr ⟨e, rest, hq, hreset⟩
  · obtain ⟨hfalse, -⟩ | ⟨hfalse, -⟩ | ⟨-, u, rfl, -⟩ := step_effect hq h
    · simp [hreset] at hfalse
    · simp [hreset] at hfalse
    · rw [resetAction_status]
      decide

end Sys2Proof.Machine
end

section
/-! Steps in which the block does nothing, settled (R12, R62, R218). -/
namespace Sys2Proof.Machine

/-- Arming an event that the spec gives a step only remembers it (log entry 7). -/
theorem arm_of_accepted {s : State} {o : Overlap} (h : (BusEvent.during o).accepted s.base = true) :
    s.arm o = .next { s with overlap := s.overlap ++ [o] } := by
  obtain ⟨t, ht⟩ := (arm_next_iff s o).2 h
  rw [ht, arm_cases ht]

/-- Settles O11: each idle event by what runEvent does, and the store by the rules of Memory.store. -/
theorem idleStepKeepsEverything : Obligations.IdleStepKeepsEverything := by
  refine ⟨fun s hq => ?_, fun s acc rest hq htarget => ?_, fun s o rest hq hacc => ?_, fun s a b rest hq => ?_⟩
  · rw [step, hq]
  · simp [step, hq, State.runEvent, State.hostAccess, htarget]
  · have harm := arm_of_accepted (s := { s with inbox := rest }) hacc
    simp [step, hq, State.runEvent, harm]
  · refine ⟨{ s with inbox := rest, mem := s.mem.store a.toNat b }, ?_, rfl, Memory.byteAt_store_same _ _ b,
      fun c hc => ⟨Memory.byteAt_store_other b hc, Memory.cell_store_other b hc⟩, fun hm => Memory.store_wf hm a.isLt⟩
    simp [step, hq, State.runEvent]

end Sys2Proof.Machine
end

section
/-! Reset, settled: a reset event leaves the reset values, and a command that it cuts leaves no trace of itself (R230). -/
namespace Sys2Proof.Machine

/-! ### The two reset events -/

theorem step_of_reset {s : State} {rest : List BusEvent} (hq : s.inbox = .reset :: rest) :
    step s = .next (State.resetAction { s with inbox := rest }) := by
  simp [step, hq, State.runEvent]

/-- The step of a cut command does not look at the word. -/
theorem step_of_cmdCut {s : State} {w : Word} {rest : List BusEvent} (hq : s.inbox = .cmdCut w :: rest) :
    step s = .next (State.beginCommand { s with inbox := rest }).settle.resetAction := by
  simp [step, hq, State.runEvent]

/-- A reset event answers the reset action of a state with the same straps, whichever command it cuts. -/
theorem step_of_isReset {s : State} {e : BusEvent} {rest : List BusEvent} (hq : s.inbox = e :: rest)
    (hreset : e.isReset = true) :
    ∃ u : State, step s = .next u.resetAction ∧ u.strapHw = s.strapHw ∧ u.strapWide = s.strapWide ∧
      ∀ w, e = .cmdCut w → ∀ v, step { s with inbox := .cmdCut v :: rest } = .next u.resetAction := by
  cases e with
  | reset => exact ⟨_, step_of_reset hq, rfl, rfl, fun w hw => by cases hw⟩
  | cmdCut w => exact ⟨_, step_of_cmdCut hq, by simp, by simp, fun _ _ v => step_of_cmdCut rfl⟩
  | host acc => cases hreset
  | during o => cases hreset
  | store a b => cases hreset
  | straps hw wide => cases hreset

/-! ### What the host reads after it -/

/-- After a reset no TBLIDX names a table. -/
theorem tblData_resetAction (s : State) (idx : Word) : State.tblData { s.resetAction with tblidx := idx } = 0 :=
  tblData_eq_zero fun j p T _ => by simp

/-- CAP in the numbers of R24. -/
theorem capWord_eq (capHw capWide : Bool) :
    capWord capHw capWide = if capHw = true ∧ capWide = true then 3#32 else if capHw = true then 1#32 else 0#32 := by
  cases capHw <;> cases capWide <;> decide

/-- Settles O48: either reset event ends in the reset action, whose values these are. -/
theorem resetEstablishesResetValues : Obligations.ResetEstablishesResetValues := by
  intro s e rest hq hreset
  obtain ⟨u, hstep, hhw, hwide, hcut⟩ := step_of_isReset hq hreset
  have hcap : u.resetAction.readReg .cap = capWord s.strapHw s.strapWide := by
    rw [State.readReg, resetAction_capHw, resetAction_capWide, hhw, hwide]
  exact ⟨_, hstep, hhw, hwide, SlotStore.get_empty, rfl, rfl, rfl, rfl, rfl, rfl, rfl, rfl, rfl,
    tblData_resetAction u 0, tblData_resetAction u, hcap.trans (capWord_eq _ _), hcut⟩

/-- Settles O49: of the cut command the reset leaves only what overlapped it. -/
theorem abandonedCommandLeavesNoTrace : Obligations.AbandonedCommandLeavesNoTrace := by
  intro s t w rest hq h
  have ht : t = { s.resetAction with
      inbox := rest, mem := s.settle.mem, overlap := [], rdata := s.beginCommand.rdata, reads := [] } := by
    obtain rfl : _ = t := by simpa using (step_of_cmdCut hq).symm.trans h
    rw [beginCommand_withInbox, beginCommand_eq]
    rfl
  refine ⟨fun v => ?_, ht, fun hnone => ?_⟩
  · rw [← h, step_of_cmdCut hq]
    exact step_of_cmdCut rfl
  · rw [ht, beginCommand_alone hnone, settle_mem, hnone]
    exact ⟨rfl, rfl⟩

end Sys2Proof.Machine
end

section
/-! Host accesses while a command executes, settled: one is answered and changes no more than the read data (R236). -/
namespace Sys2Proof.Machine

/-! ### The answer -/

theorem busyAccess_of_read {s : State} {acc : HostAccess} {r : HostReg} (htarget : acc.target s.base = .register r)
    (hop : acc.op = .read) : s.busyAccess acc = { s with rdata := s.readRegBusy r } := by
  simp only [State.busyAccess, htarget, hop]

theorem busyAccess_of_not_read {s : State} {acc : HostAccess} (hop : acc.op ≠ .read) : s.busyAccess acc = s := by
  rw [State.busyAccess]
  split
  · rfl
  · rfl
  · split
    · exact absurd ‹_› hop
    · rfl
    · rfl

/-- With one access overlapping it, the start of a command answers that access after BUSY has risen. -/
theorem beginCommand_of_access {s : State} {acc : HostAccess} (h : s.overlap = [.access acc]) :
    s.beginCommand = State.busyAccess { s with status := statusBegin s.status, reads := [] } acc := by
  rw [State.beginCommand, h]
  rfl

/-! ### The command beside it -/

/-- HASH does not look at the host's read data. -/
theorem hashCommand_withRdata (s : State) (x : Word) :
    State.hashCommand { s with rdata := x } = { s.hashCommand with rdata := x } := by
  obtain ⟨hsel, h⟩ | ⟨hsel, hrange, h⟩ | ⟨hsel, hrange, hread, h⟩ | ⟨hsel, hrange, hread, h⟩ := hashCommand_cases s
  · rw [h]
    exact hashCommand_noSel hsel
  · rw [h]
    exact hashCommand_range hsel hrange
  · rw [h]
    exact hashCommand_bus hsel hrange hread
  · refine (hashCommand_buffer (s := { s with rdata := x }) hsel hrange hread).trans ?_
    obtain ⟨c, hraced, hc, hb⟩ | ⟨hfree, hb⟩ := hashBuffer_cases s
    · rw [h, hb]
      exact hashBuffer_calculator hraced hc
    · rw [h, hb]
      exact hashBuffer_free hfree

/-- The state with other events overlapping the next command and other read data. -/
def State.overlappedBy (s : State) (os : List Overlap) (x : Word) : State := { s with overlap := os, rdata := x }

/-- No command looks at the host's read data, nor at overlapped events that leave its buffer alone. -/
theorem exec_overlappedBy {i : Instr} {s t : State} {os : List Overlap} (x : Word) (hs : Undisturbed s)
    (hs' : Undisturbed { s with overlap := os }) (h : exec i s = .next t) :
    exec i (s.overlappedBy os x) = .next (t.overlappedBy os x) := by
  obtain ⟨k, ⟨rfl, rfl⟩ | ⟨w, rfl, rfl⟩, rfl⟩ | ⟨rfl, rfl⟩ := exec_cases h
  · exact exec_get_eq_request _
  · exact exec_select_eq_request _ w
  · have hhash : State.hashCommand { s with overlap := os } = { s.hashCommand with overlap := os } := by
      simpa using hashCommand_withSurroundings (m := s.mem) (fun _ _ => rfl) hs hs'
    rw [exec_hash, State.overlappedBy, hashCommand_withRdata { s with overlap := os } x, hhash, State.overlappedBy]

/-- What overlaps a command is seen at its start in the answers only. -/
theorem beginCommand_eq_overlappedBy (s : State) :
    s.beginCommand = (State.beginCommand { s with overlap := [] }).overlappedBy s.overlap s.beginCommand.rdata := by
  rw [beginCommand_alone (s := { s with overlap := [] }) rfl]
  exact beginCommand_eq s

/-- An overlapped access leaves nothing behind when the command is over. -/
theorem settle_overlappedBy_access {s : State} (h : s.overlap = []) (acc : HostAccess) (x : Word) :
    (s.overlappedBy [.access acc] x).settle = { s.settle with rdata := x } := by
  rw [State.settle, State.settle, h]
  rfl

/-- ON_CMD_WRITE with one access overlapping it does as with none, but for the read data. -/
theorem onCmdWrite_of_access {s u : State} {w : Word} {acc : HostAccess} (h : s.overlap = [.access acc])
    (hu : State.onCmdWrite { s with overlap := [] } w = .next u) :
    s.onCmdWrite w = .next { u with rdata := s.beginCommand.rdata } := by
  have hbegin := beginCommand_eq_overlappedBy s
  rw [h] at hbegin
  obtain ⟨i, v, hd, hv, rfl⟩ | ⟨r, hd, rfl⟩ := onCmdWrite_cases hu
  · have halone : v.overlap = [] := by
      obtain ⟨-, -, -, -, -, -, -, -, hoverlap⟩ := exec_keeps_operands hv
      simpa using hoverlap
    have hexec := exec_overlappedBy (os := [.access acc]) s.beginCommand.rdata (by simp [Undisturbed])
      (by simp [Undisturbed]) hv
    rw [← hbegin] at hexec
    rw [onCmdWrite_of_decode hd, hexec, thenNext, settle_overlappedBy_access halone]
  · have hcomplete : s.beginCommand.complete .illegal =
        ((State.beginCommand { s with overlap := [] }).complete .illegal).overlappedBy [.access acc]
          s.beginCommand.rdata := congrArg (State.complete · .illegal) hbegin
    rw [State.onCmdWrite, hd, hcomplete, settle_overlappedBy_access (by simp)]

/-- The read data after a write to CMD is that of the accesses answered at its start. -/
theorem onCmdWrite_rdata {s t : State} {w : Word} (h : s.onCmdWrite w = .next t) : t.rdata = s.beginCommand.rdata := by
  obtain ⟨k, -, rfl⟩ | ⟨-, rfl⟩ | rfl := onCmdWrite_effect h <;> simp [request_eq]

/-- Settles O58: the access is answered at the start of the command, and the command does as without it. -/
theorem accessWhileBusyIsAnsweredAsBefore : Obligations.AccessWhileBusyIsAnsweredAsBefore := by
  intro s t w rest o op r hnext hr hoverlap h
  have hbegin := beginCommand_of_access (s := { s with inbox := rest }) hoverlap
  obtain ⟨u, hu⟩ := onCmdWrite_total { s with inbox := rest, overlap := [] } w
  have halone : step { s with overlap := [] } = .next u :=
    (step_of_cmdWriteNext (s := { s with overlap := [] }) hnext).trans hu
  rw [step_of_cmdWriteNext hnext] at h
  have hanswer := onCmdWrite_rdata h
  have ht : t = { u with rdata := t.rdata } := by
    rw [hanswer]
    simpa using h.symm.trans (onCmdWrite_of_access hoverlap hu)
  refine ⟨fun hop => ?_, u, halone, ht, fun hop => ?_⟩
  · have hread := busyAccess_of_read (s := { s with inbox := rest, status := statusBegin s.status, reads := [] })
      (acc := { addr := .offset o, width := 4, op := op }) (r := r)
      (by simp [HostAccess.target, targetOfOffset, hr]) hop
    rw [hanswer, hbegin, hread]
    obtain ⟨hbusy, -⟩ := statusBegin_fields s.status
    refine ⟨?_, ?_, ?_, ?_, ?_⟩ <;> rintro rfl
    · rfl
    · rfl
    · rfl
    · rfl
    · exact hbusy
  · have hsame : t.rdata = u.rdata := by
      rw [hanswer, hbegin, busyAccess_of_not_read hop, onCmdWrite_rdata hu,
        beginCommand_alone (s := { s with inbox := rest, overlap := [] }) rfl]
    rw [ht, hsame]

end Sys2Proof.Machine
end

section
/-! Writes of the registers that the host writes, settled: the next access sees them (R237). -/
namespace Sys2Proof.Machine

theorem cmdWriteNext_of_writeEvent {s : State} {w : Word} {rest : List BusEvent}
    (hq : s.inbox = writeEvent 0x00 w :: rest) : CmdWriteNext s w rest :=
  ⟨_, hq, rfl, .inl rfl⟩

/-! ### The commands that may come next -/

/-- With legal slots the slot that MUX chooses has the polynomial in POLY. -/
theorem request_mux_selpoly {s : State} (h : LegalSlots s.slots s.capHw) : (s.request (mux s.poly)).selpoly = s.poly := by
  obtain ⟨-, hpoly⟩ := serve_selection h (.get s.poly)
  exact hpoly

/-- A step that is a GET in a legal state selects the polynomial in POLY. -/
theorem step_of_getNext_selection {s : State} {rest : List BusEvent} (hs : s.Inv)
    (hnext : CmdWriteNext s 0x00000001#32 rest) :
    ∃ t, step s = .next t ∧ t.selpoly = s.poly ∧ selSlot t.sel = (mux s.poly).num := by
  have hd : decode 0x00000001#32 = .ok .get := by decide
  refine ⟨((State.beginCommand { s with inbox := rest }).request (mux s.poly)).settle, ?_, ?_, selSlot_selWord _ _⟩
  · rw [step_of_cmdWriteNext hnext, onCmdWrite_of_decode hd, exec_get_eq_request, thenNext, beginCommand_poly]
  · simpa using request_mux_selpoly (hs.withInbox rest).beginCommand.slots

/-- R126, R145: what an undisturbed HASH computes in a state that is ready for its command, with BUSY = 1. -/
theorem State.Ready.hashCommand_reference {s : State} (hs : s.Ready) (hchecks : ChecksPass s) (hquiet : Undisturbed s) :
    s.hashCommand.result = ~~~(foldBytes s.selpoly (~~~s.seed) (bufferBytes s)) ∧
      statusErr s.hashCommand.status = 0#4 := by
  obtain ⟨hinvalid, -⟩ | ⟨k, c, hget, hat, -, -, -, hpoly⟩ := hs.selection.cases
  · exact absurd hchecks.selected (by simp [hinvalid])
  · obtain ⟨hresult, -, herr⟩ := hashCommand_calculator hchecks hquiet.hashRaced hat
    refine ⟨?_, herr⟩
    rw [hresult, hs.slots.checksum hget, hpoly, hashData_eq_bufferBytes]

/-- A step that is an undisturbed HASH in a legal state. -/
theorem step_of_hashNext_reference {s : State} {rest : List BusEvent} (hs : s.Inv)
    (hnext : CmdWriteNext s 0x00000003#32 rest) (hchecks : ChecksPass s) (hquiet : Undisturbed s) :
    ∃ t, step s = .next t ∧ t.result = ~~~(foldBytes s.selpoly (~~~s.seed) (bufferBytes s)) ∧
      statusErr t.status = 0#4 := by
  have hchecks' : ChecksPass { s with inbox := rest } := ⟨hchecks.selected, hchecks.range, hchecks.readable⟩
  have hquiet' : Undisturbed (State.beginCommand { s with inbox := rest }) := by
    simpa [Undisturbed, InBuffer] using hquiet
  refine ⟨_, step_of_hashNext hnext, ?_⟩
  simpa [bufferBytes] using
    (hs.withInbox rest).beginCommand.hashCommand_reference hchecks'.beginCommand hquiet'

/-! ### The write -/

/-- The step of a write of one of the five registers, in the values that the statement lists. -/
theorem step_of_listedWrite {s m : State} {off : Nat} {v : Word} {q : List BusEvent}
    (hm : (off, m) ∈ [(0x0C, { s with poly := v }), (0x10, { s with seed := v }), (0x14, { s with addr := v }),
      (0x18, { s with len := v }), (0x28, { s with tblidx := (v.extractLsb' 0 15).setWidth 32 })])
    (hq : s.inbox = writeEvent off v :: q) : step s = .next { m with inbox := q } := by
  simp only [List.mem_cons, Prod.mk.injEq, List.not_mem_nil, or_false] at hm
  obtain ⟨rfl, rfl⟩ | ⟨rfl, rfl⟩ | ⟨rfl, rfl⟩ | ⟨rfl, rfl⟩ | ⟨rfl, rfl⟩ := hm
  · exact step_of_writeEvent (r := .poly) hq rfl (by decide)
  · exact step_of_writeEvent (r := .seed) hq rfl (by decide)
  · exact step_of_writeEvent (r := .addr) hq rfl (by decide)
  · exact step_of_writeEvent (r := .len) hq rfl (by decide)
  · rw [← tblidxStored_eq_setWidth]
    exact step_of_writeEvent (r := .tblidx) hq rfl (by decide)

/-- Settles O59: each write is stored by its own step, and the next step is that of the state which holds it. -/
theorem registerWriteIsSeenByTheNextCommand : Obligations.RegisterWriteIsSeenByTheNextCommand := by
  refine ⟨fun s m off v e rest hm hq => step_of_listedWrite hm hq, fun s p rest hs hq => ?_,
    fun s m off v rest hm hq hs hchecks hquiet => ?_, fun s v rest hq => ?_⟩
  · have hstep : step s = .next { s with inbox := writeEvent 0x00 0x00000001#32 :: rest, poly := p } :=
      step_of_writeEvent (r := .poly) hq rfl (by decide)
    have hinv := stepKeepsTheInvariant _ _ hs hstep
    obtain ⟨u, hu, hpoly, hslot⟩ := step_of_getNext_selection hinv (cmdWriteNext_of_writeEvent rfl)
    exact ⟨_, u, hstep, hu, hpoly, hslot⟩
  · have hstep : step s = .next { m with inbox := writeEvent 0x00 0x00000003#32 :: rest } :=
      step_of_listedWrite (List.mem_cons_of_mem _ (List.mem_append_left [_] hm)) hq
    have hinv := stepKeepsTheInvariant _ _ hs hstep
    obtain ⟨u, hu, hresult, herr⟩ := step_of_hashNext_reference hinv (cmdWriteNext_of_writeEvent rfl)
      ⟨hchecks.selected, hchecks.range, hchecks.readable⟩ hquiet
    exact ⟨_, u, hstep, hu, hresult, herr⟩
  · have hstep : step s = .next { s with inbox := readEvent 0x2C :: rest, tblidx := tblidxStored v } :=
      step_of_writeEvent (r := .tblidx) hq rfl (by decide)
    obtain ⟨hbyte, hslice, hsrc⟩ := tblidxStored_fields v
    obtain ⟨hentry, -⟩ := tbldataReadsTheNamedEntry
    refine ⟨_, _, hstep, step_of_readEvent (r := .tbldata) rfl rfl, fun k p T hk hslot => ?_, fun hnone => ?_⟩
    · rw [← hbyte, ← hslice]
      exact hentry _ k p T (hsrc.trans hk) hslot
    · exact tblData_eq_zero fun k p T hk => hnone k p T (hsrc.symm.trans hk)

end Sys2Proof.Machine
end
